-- ==== Sys2Proof/Syntax.lean ====
section
/-! DEFINITION. The instruction set: the six commands of the command word (R2, R70), one constructor per row of
spec/opcode_table.json. -/

namespace Sys2Proof

/-- The commands (R70). None carries an operand: each reads fixed input registers and writes fixed output
registers (R69). -/
inductive Instr where
  /-- CMD = 0x01, encode an unsigned value (R80). -/
  | encu
  /-- CMD = 0x02, encode a signed value through zigzag (R81). -/
  | encs
  /-- CMD = 0x03, decode an unsigned value (R90). -/
  | decu
  /-- CMD = 0x04, decode a signed value (R91). -/
  | decs
  /-- CMD = 0x05, signed to unsigned (R100). -/
  | zz
  /-- CMD = 0x06, unsigned to signed (R101). -/
  | unzz
  deriving DecidableEq, Repr

end Sys2Proof
end

