-- ==== Sys2Proof/Word.lean ====
section
/-! DEFINITION. The data widths of the block: bytes, 32-bit values, 3-bit counts, and the five-byte registers. -/

namespace Sys2Proof

/-- 8 bits, 0 to 0xFF (R13). -/
abbrev Byte := BitVec 8

/-- The 32-bit value width of `u32` and `i32` (R7). -/
abbrev Word := BitVec 32

/-- The 3-bit width of IN_AVAIL, OUT_LEN and OUT_CONSUMED (R21). -/
abbrev Count := BitVec 3

/-- Five byte registers with consecutive numbers: the input window `IN_B[0..4]` or the output register
`OUT_B[0..4]` (R16, R21, R32). Byte k is the field `bk`. -/
structure Bytes5 where
  b0 : Byte
  b1 : Byte
  b2 : Byte
  b3 : Byte
  b4 : Byte
  deriving DecidableEq, Repr

end Sys2Proof
end

