-- ==== Sys2Proof/Decode.lean ====
section
/-! DEFINITION. The command word (R68 to R72): its fields, the decoder, and after it the encoder. -/

namespace Sys2Proof

/-- Why a byte sequence is no command. -/
inductive DecodeReject where
  /-- There is no byte. -/
  | noByte
  /-- The RSV field, bits 7:3, is not 0 (R68, R71). -/
  | reservedBits (c : Byte)
  /-- OP is 000 or 111 (R70, R71). -/
  | reservedOp (c : Byte)
  deriving DecidableEq, Repr

/-- Field RSV, bits 7:3 of the command word (R68). -/
def rsvField (c : Byte) : BitVec 5 := c.extractLsb' 3 5

/-- Field OP, bits 2:0 of the command word (R68). -/
def opField (c : Byte) : BitVec 3 := c.extractLsb' 0 3

/-- The command a CMD value selects, or why it is illegal (R68, R70, R71). -/
def decodeByte (c : Byte) : Except DecodeReject Instr :=
  if rsvField c ≠ 0#5 then .error (.reservedBits c)
  else
    match (opField c).toNat with
    | 1 => .ok .encu
    | 2 => .ok .encs
    | 3 => .ok .decu
    | 4 => .ok .decs
    | 5 => .ok .zz
    | 6 => .ok .unzz
    | _ => .error (.reservedOp c)

/-- Decode the first command of a byte sequence, with the bytes after it. Every command is one byte long
(R68, R72). -/
def decode : List Byte → Except DecodeReject (Instr × List Byte)
  | [] => .error .noByte
  | c :: rest =>
    match decodeByte c with
    | .ok i => .ok (i, rest)
    | .error r => .error r

/-- The CMD byte of an instruction given as the number `w` of its low `nbits` bits: a CMD write keeps the low
8 bits (R22 b). -/
def commandByte (nbits w : Nat) : Byte := BitVec.ofNat 8 (w % 2 ^ nbits)

/-- What the decoder reads from a row of spec/opcode_table.json. -/
def decodeTableWord (nbits w : Nat) : Option Instr :=
  match decode [commandByte nbits w] with
  | .ok (i, _) => some i
  | .error _ => none

/-- The OP value of a command (R70). -/
def opOf : Instr → BitVec 3
  | .encu => 0b001#3
  | .encs => 0b010#3
  | .decu => 0b011#3
  | .decs => 0b100#3
  | .zz => 0b101#3
  | .unzz => 0b110#3

/-- The CMD value of a command: RSV = 0 above OP (R68). -/
def encodeByte (i : Instr) : Byte := 0b00000#5 ++ opOf i

/-- The command word as a byte sequence. -/
def encode (i : Instr) : List Byte := [encodeByte i]

end Sys2Proof
end

