-- ==== Sys2Proof/Config.lean ====
section
/-! DEFINITION. The implementation parameters of the spec (R8 to R12): those this hardware fixes are
definitions, those the spec leaves OPEN are constants without a body, and so is the register content it leaves unspecified. -/

namespace Sys2Proof

/-- Parameter BYTE0_ORDER (R9): which payload bits byte 0 of a multi-byte encoding carries. -/
inductive Byte0Order where
  | high
  | low
  deriving DecidableEq, Repr, Inhabited

/-- Parameter NONCANON5_POLICY (R10): what the decoder does with a five-byte encoding that has bits set
which carry no value bit. -/
inductive Noncanon5Policy where
  | ignore
  | error
  deriving DecidableEq, Repr, Inhabited

/-- SCRATCH_BYTES = 5 (R8): the bytes of the encoder's output register. -/
def Config.scratchBytes : Nat := 5

/-- BYTE0_ORDER = HIGH, the value this hardware takes (R9). The other layout is modelled as well: every
function of the wire format takes the order as an argument. -/
def Config.byte0Order : Byte0Order := .high

/-- NONCANON5_POLICY is OPEN (R10): no body, so a claim about the machine holds for both values. The
decoder takes the policy as an argument, and the commands pass this constant. DESIGN CHOICE (notes/assumptions/2.md):
it is one constant, the same for every instance. -/
opaque Config.noncanon5Policy : Noncanon5Policy

/-- LATENCY is OPEN (R11). No rule depends on it and nothing in the model reads it (R140, R144;
notes/assumptions/3.md). -/
opaque Config.latency : Nat

/-- What the hardware's IN_VALUE holds after the reset with the given number, until the host writes it. R34 leaves
it unspecified, so it is a free value: no body, and nothing can be proved of it (notes/assumptions/6.md).
DESIGN CHOICE (notes/assumptions/21.md): it takes no instance, so two instances, or two power-ons, with equal numbers of
resets hold the same content, which the spec leaves open (R12, R34, R122). -/
opaque Config.unspecifiedValue : Nat → Word

/-- What the hardware's IN_B[k] holds after the reset with the given number, until the host writes it: a free
value, as above (R34; notes/assumptions/6.md), and by the same DESIGN CHOICE the same in every instance and at every
power-on with an equal number of resets (R12, R34, R122; notes/assumptions/21.md). -/
opaque Config.unspecifiedByte : Nat → Fin 5 → Byte

end Sys2Proof
end

