-- ==== Sys2Proof/Machine/State.lean ====
section
/-! DEFINITION. The state of the block and of its host interface, the reasons a step can stop, and the state
after reset (10_state.md; R116, R124, R130). -/

namespace Sys2Proof.Machine

/-- The 17 interface registers by name (R21). `inB k` is IN_Bk and `outB k` is OUT_Bk. -/
inductive Reg where
  | cmd
  | status
  | inValue
  | inB (k : Fin 5)
  | inAvail
  | outB (k : Fin 5)
  | outLen
  | outValue
  | outConsumed
  deriving DecidableEq, Repr

/-- The named fields of STATUS (R24); bit 7 is reserved and has no name. -/
inductive StatusFlag where
  | bv
  | vv
  | cv
  | eshort
  | enoncanon
  | eill
  | sticky
  deriving DecidableEq, Repr

/-- The errors a command can raise (R111). -/
inductive ErrorCause where
  | decodeShort
  | decodeNonCanonical
  | illegalCommand
  deriving DecidableEq, Repr

/-- What the outside world does to the block, one event at a time (R20, R73, R124, R130). Register numbers
are plain numbers, because a host may name a number the block does not have (R22 c). -/
inductive HostEvent where
  /-- `WR reg, value` (R73). -/
  | write (reg : Nat) (value : Word)
  /-- `RD reg` (R73). -/
  | read (reg : Nat)
  /-- The system asserts the one reset (R130). -/
  | reset
  /-- Any access by a second host that shares the block (R54). -/
  | secondHost
  deriving DecidableEq, Repr

/-- One value the host has read: the register, and its content zero-extended to 32 bits (R44, R124). -/
structure HostRead where
  reg   : Reg
  value : Word
  deriving DecidableEq, Repr

/-- Which input registers the host has written since reset (R116 c). IN_AVAIL has a reset value, so it is
never unwritten and needs no mark. -/
structure InputsWritten where
  inValue : Bool
  b0 : Bool
  b1 : Bool
  b2 : Bool
  b3 : Bool
  b4 : Bool
  deriving DecidableEq, Repr

/-- Why a step stops with a fault: the host reads that the spec forbids and gives no value for (R116 a and b). -/
inductive Fault where
  /-- Raised by a host read of OUT_B[k] or OUT_LEN while BV = 0, of OUT_VALUE while VV = 0, or of OUT_CONSUMED
  while CV = 0 (R26). Safe: the hardware returns a stale value, the model none. -/
  | invalidOutput (reg : Reg)
  /-- Raised by a host read of OUT_B[k] with k ≥ OUT_LEN while BV = 1 (R27). Safe, for the same reason. -/
  | staleOutputByte (k : Fin 5)
  deriving DecidableEq, Repr

/-- The model faults of R116, as a state records them. None is an error of the hardware. -/
inductive ModelFault where
  /-- A host read that stopped its block (R116 a and b). -/
  | stopped (f : Fault)
  /-- The use of an input register the host has not written since reset, by a command or a host read (R34,
  R116 c). The hardware goes on from content the spec leaves unspecified (R131), and so does the model, from a
  free value. -/
  | unwrittenInput (reg : Reg)
  deriving DecidableEq, Repr

/-- Why a step is refused. -/
inductive Refusal where
  /-- Raised only by an arm of `exec` whose instruction has no meaning yet. Safe. No arm is in this case. -/
  | notModelled (mnemonic : String)
  /-- Raised by a host access to a register number of 17 or more (R22 c, U5). Safe: the spec gives it no effect. -/
  | noSuchRegister (number : Nat)
  /-- Raised by an access of a second host (R54, U6). Safe: the spec gives it no effect. -/
  | sharedBySecondHost
  deriving DecidableEq, Repr

/-- The whole state. The first nine fields are the 17 interface registers of R21, all the storage the block
has (R33). The last five are the model's own: the marks and the record that R116 asks a model to keep, the number
of resets, and the host's side of the interface (R124). There is no memory and no program counter (R30, R40). -/
structure State where
  /-- Register 0, CMD: the last value written to it. -/
  cmd : Byte
  /-- Register 1, STATUS (R24). -/
  status : Byte
  /-- Register 2, IN_VALUE. -/
  inValue : Word
  /-- Registers 3 to 7, IN_B0 to IN_B4: the decoder window. -/
  inB : Bytes5
  /-- Register 8, IN_AVAIL (R23). -/
  inAvail : Count
  /-- Registers 9 to 13, OUT_B0 to OUT_B4: the encoder's output bytes. -/
  outB : Bytes5
  /-- Register 14, OUT_LEN. -/
  outLen : Count
  /-- Register 15, OUT_VALUE. -/
  outValue : Word
  /-- Register 16, OUT_CONSUMED. -/
  outConsumed : Count
  /-- Which inputs the host has written since reset (R116 c). -/
  written : InputsWritten
  /-- The model fault recorded for this block, if one arose: the first one, never cleared (R116;
  notes/assumptions/6.md, 15.md). -/
  modelFault : Option ModelFault
  /-- How many reset events there were: the number under which the inputs' unspecified content is free, one content
  for each reset (R34, R130; notes/assumptions/6.md), in every instance alike (notes/assumptions/21.md). -/
  resets : Nat
  /-- The host accesses still to come, next one first (R49, R124). -/
  pending : List HostEvent
  /-- The values the host has read, oldest first (R124). -/
  reads : List HostRead
  deriving DecidableEq, Repr

/-- No input written yet. -/
def InputsWritten.none : InputsWritten := ⟨false, false, false, false, false, false⟩

/-- Five zero bytes. -/
def zeroBytes5 : Bytes5 := ⟨0#8, 0#8, 0#8, 0#8, 0#8⟩

/-- The machine right after reset (R34): CMD, STATUS and IN_AVAIL are 0 by the spec. The spec gives the other
registers no value; zero is this model's DESIGN CHOICE (notes/assumptions/1.md), and nothing reads that zero (R34;
`State.valueOperand`, `State.byteOperand`, `State.readFault`). No host access is pending. -/
def State.reset : State where
  cmd := 0x00#8
  status := 0x00#8
  inValue := 0#32
  inB := zeroBytes5
  inAvail := 0#3
  outB := zeroBytes5
  outLen := 0#3
  outValue := 0#32
  outConsumed := 0#3
  written := InputsWritten.none
  modelFault := Option.none
  resets := 0
  pending := []
  reads := []

end Sys2Proof.Machine
end

