-- ==== Sys2Proof/Machine/Flags.lean ====
section
/-! DEFINITION. STATUS: its fields, what sets and clears them, and what the host sees of them (R24, R25). -/

namespace Sys2Proof.Machine

/-- The STATUS bit number of a field (R24). -/
def StatusFlag.bit : StatusFlag → Nat
  | .bv => 0
  | .vv => 1
  | .cv => 2
  | .eshort => 3
  | .enoncanon => 4
  | .eill => 5
  | .sticky => 6

/-- The field an error sets; its bit number is the error's cause code (R111). -/
def ErrorCause.flag : ErrorCause → StatusFlag
  | .decodeShort => .eshort
  | .decodeNonCanonical => .enoncanon
  | .illegalCommand => .eill

/-- `STATUS <- b`, the one way STATUS changes. -/
def State.withStatus (s : State) (b : Byte) : State := { s with status := b }

/-- `STATUS.f` (R16). -/
def State.flag (s : State) (f : StatusFlag) : Bool := s.status.getLsbD f.bit

/-- `STATUS.f <- 1` (R16). -/
def State.setFlag (s : State) (f : StatusFlag) : State :=
  s.withStatus (s.status ||| (1#8 <<< f.bit))

/-- `STATUS[5:0] <- 0`, at the issue of every command; STICKY and bit 7 stay (R25). -/
def State.clearCommandStatus (s : State) : State := s.withStatus (s.status &&& 0xC0#8)

/-- What a read of STATUS gives: bit 7 always reads 0 (R24). -/
def State.statusRead (s : State) : Byte := s.status &&& 0x7F#8

end Sys2Proof.Machine
end

