-- ==== Sys2Proof/Machine/Operands.lean ====
section
/-! DEFINITION. How registers are named and read: register numbers (R21), bytes of the five-byte registers (R16),
the decoder's byte count (R23), what is read in an input register (R34), and what a host read of each register
gives (R26, R27). -/

namespace Sys2Proof.Machine

/-- `x[i]`: the register with number i, if there is one (R21, R22 c). -/
def regOfNumber : Nat → Option Reg
  | 0 => some .cmd
  | 1 => some .status
  | 2 => some .inValue
  | 3 => some (.inB 0)
  | 4 => some (.inB 1)
  | 5 => some (.inB 2)
  | 6 => some (.inB 3)
  | 7 => some (.inB 4)
  | 8 => some .inAvail
  | 9 => some (.outB 0)
  | 10 => some (.outB 1)
  | 11 => some (.outB 2)
  | 12 => some (.outB 3)
  | 13 => some (.outB 4)
  | 14 => some .outLen
  | 15 => some .outValue
  | 16 => some .outConsumed
  | _ => none

/-- The number of a register (R21). -/
def numberOfReg : Reg → Nat
  | .cmd => 0
  | .status => 1
  | .inValue => 2
  | .inB k => 3 + k.val
  | .inAvail => 8
  | .outB k => 9 + k.val
  | .outLen => 14
  | .outValue => 15
  | .outConsumed => 16

/-- The width of a register in bits (R21). -/
def widthOfReg : Reg → Nat
  | .cmd => 8
  | .status => 8
  | .inValue => 32
  | .inB _ => 8
  | .inAvail => 3
  | .outB _ => 8
  | .outLen => 3
  | .outValue => 32
  | .outConsumed => 3

/-- Whether the host may write a register (R21, the access column). -/
def hostWritable : Reg → Bool
  | .cmd => true
  | .status => false
  | .inValue => true
  | .inB _ => true
  | .inAvail => true
  | .outB _ => false
  | .outLen => false
  | .outValue => false
  | .outConsumed => false

/-- Byte k of a five-byte register (R16). -/
def byteAt (b : Bytes5) (k : Fin 5) : Byte :=
  match k with
  | 0 => b.b0
  | 1 => b.b1
  | 2 => b.b2
  | 3 => b.b3
  | 4 => b.b4

/-- Byte k of a five-byte register replaced. -/
def setByteAt (b : Bytes5) (k : Fin 5) (v : Byte) : Bytes5 :=
  match k with
  | 0 => { b with b0 := v }
  | 1 => { b with b1 := v }
  | 2 => { b with b2 := v }
  | 3 => { b with b3 := v }
  | 4 => { b with b4 := v }

/-- `for k in 0 .. n-1: B[k] <- new[k]`: the bytes from position n on keep their content (R27, R80). -/
def overwritePrefix (new : List Byte) (old : Bytes5) : Bytes5 where
  b0 := new.getD 0 old.b0
  b1 := new.getD 1 old.b1
  b2 := new.getD 2 old.b2
  b3 := new.getD 3 old.b3
  b4 := new.getD 4 old.b4

/-- Whether the host has written IN_B[k] since reset (R116 c). -/
def byteWritten (w : InputsWritten) (k : Fin 5) : Bool :=
  match k with
  | 0 => w.b0
  | 1 => w.b1
  | 2 => w.b2
  | 3 => w.b3
  | 4 => w.b4

/-- IN_B[k] marked as written. -/
def markByteWritten (w : InputsWritten) (k : Fin 5) : InputsWritten :=
  match k with
  | 0 => { w with b0 := true }
  | 1 => { w with b1 := true }
  | 2 => { w with b2 := true }
  | 3 => { w with b3 := true }
  | 4 => { w with b4 := true }

/-- `avail <- min(IN_AVAIL, 5)` (R23). -/
def State.avail (s : State) : Nat := min s.inAvail.toNat 5

/-- Whether a register holds content the host has a right to: an input register does once it is written since
reset, CMD, STATUS and IN_AVAIL always do, and for an output the question does not arise here (R34, R116 c). -/
def State.inputWritten (s : State) : Reg → Bool
  | .inValue => s.written.inValue
  | .inB k => byteWritten s.written k
  | .cmd => true
  | .status => true
  | .inAvail => true
  | .outB _ => true
  | .outLen => true
  | .outValue => true
  | .outConsumed => true

/-- What a command or a host reads in IN_VALUE: what the host wrote, or, not written since reset, a free value,
since the hardware computes from unspecified content and the model gives it no value (R34, R116 c, R131, U4;
notes/assumptions/6.md). It is one value for all instances with equal `resets` (notes/assumptions/21.md). -/
def State.valueOperand (s : State) : Word :=
  if s.inputWritten .inValue then s.inValue else Config.unspecifiedValue s.resets

/-- What a command or a host reads in IN_B[k], in the same way (R34, R116 c, U4; notes/assumptions/6.md, 21.md). -/
def State.byteOperand (s : State) (k : Fin 5) : Byte :=
  if s.inputWritten (.inB k) then byteAt s.inB k else Config.unspecifiedByte s.resets k

/-- The decoder's window as the decoder reads it. -/
def State.windowOperand (s : State) : Bytes5 where
  b0 := s.byteOperand 0
  b1 := s.byteOperand 1
  b2 := s.byteOperand 2
  b3 := s.byteOperand 3
  b4 := s.byteOperand 4

/-- What a read of a register gives, zero-extended to 32 bits; STATUS bit 7 reads 0 (R21, R24, R44). -/
def State.content (s : State) : Reg → Word
  | .cmd => s.cmd.setWidth 32
  | .status => s.statusRead.setWidth 32
  | .inValue => s.valueOperand
  | .inB k => (s.byteOperand k).setWidth 32
  | .inAvail => s.inAvail.setWidth 32
  | .outB k => (byteAt s.outB k).setWidth 32
  | .outLen => s.outLen.setWidth 32
  | .outValue => s.outValue
  | .outConsumed => s.outConsumed.setWidth 32

/-- Why a host read of a register stops, if it does: an output whose valid bit is 0 (R26), or an output byte at
or beyond OUT_LEN (R27). -/
def State.readFault (s : State) : Reg → Option Fault
  | .outB k =>
    if s.flag .bv = false then some (.invalidOutput (.outB k))
    else if s.outLen.toNat ≤ k.val then some (.staleOutputByte k)
    else none
  | .outLen => if s.flag .bv = false then some (.invalidOutput .outLen) else none
  | .outValue => if s.flag .vv = false then some (.invalidOutput .outValue) else none
  | .outConsumed => if s.flag .cv = false then some (.invalidOutput .outConsumed) else none
  | .cmd => none
  | .status => none
  | .inValue => none
  | .inB _ => none
  | .inAvail => none

end Sys2Proof.Machine
end

