-- ==== Sys2Proof/Machine/WireFormat.lean ====
section
/-! DEFINITION. The varint wire format (R60 to R67) and the non-canonical test of the decoder (R92), for both
values of BYTE0_ORDER. -/

namespace Sys2Proof.Machine

/-- The five length classes (R60). -/
inductive LenClass where
  | one
  | two
  | three
  | four
  | five
  deriving DecidableEq, Repr

/-- n, the number of bytes of an encoding in the class (R60). -/
def LenClass.bytes : LenClass → Nat
  | .one => 1
  | .two => 2
  | .three => 3
  | .four => 4
  | .five => 5

/-- n as the content of OUT_LEN or OUT_CONSUMED. -/
def LenClass.count (c : LenClass) : Count := BitVec.ofNat 3 c.bytes

/-- The window positions 0 to n−1 an encoding in the class takes, byte 0 first. -/
def LenClass.positions : LenClass → List (Fin 5)
  | .one => [0]
  | .two => [0, 1]
  | .three => [0, 1, 2]
  | .four => [0, 1, 2, 3]
  | .five => [0, 1, 2, 3, 4]

/-- `v[hi:lo]` as a byte, for fields of at most 8 bits (R14). -/
def byteField (v : Word) (hi lo : Nat) : Byte := (v.extractLsb hi lo).setWidth 8

/-- `zext_32(b[hi:lo])` (R14). -/
def wordField (b : Byte) (hi lo : Nat) : Word := (b.extractLsb hi lo).setWidth 32

/-- `len(v)`, the class of the minimal encoding (R61). -/
def lenOf (v : Word) : LenClass :=
  if v.toNat ≤ 0x7F then .one
  else if v.toNat ≤ 0x3FFF then .two
  else if v.toNat ≤ 0x1FFFFF then .three
  else if v.toNat ≤ 0x0FFFFFFF then .four
  else .five

/-- `enc_HIGH(v)`: byte 0 carries the most significant payload bits (R62, R65). -/
def encHigh (v : Word) : List Byte :=
  match lenOf v with
  | .one => [byteField v 7 0]
  | .two => [0x80#8 ||| byteField v 13 8, byteField v 7 0]
  | .three => [0xC0#8 ||| byteField v 20 16, byteField v 7 0, byteField v 15 8]
  | .four => [0xE0#8 ||| byteField v 27 24, byteField v 7 0, byteField v 15 8, byteField v 23 16]
  | .five => [0xF0#8, byteField v 7 0, byteField v 15 8, byteField v 23 16, byteField v 31 24]

/-- `enc_LOW(v)`: byte 0 carries the least significant payload bits (R66). -/
def encLow (v : Word) : List Byte :=
  match lenOf v with
  | .one => [byteField v 7 0]
  | .two => [0x80#8 ||| byteField v 5 0, byteField v 13 6]
  | .three => [0xC0#8 ||| byteField v 4 0, byteField v 12 5, byteField v 20 13]
  | .four => [0xE0#8 ||| byteField v 3 0, byteField v 11 4, byteField v 19 12, byteField v 27 20]
  | .five =>
    [0xF0#8 ||| byteField v 2 0, byteField v 10 3, byteField v 18 11, byteField v 26 19, byteField v 31 27]

/-- `enc(v)` for a value of BYTE0_ORDER (R80). -/
def enc (o : Byte0Order) (v : Word) : List Byte :=
  match o with
  | .high => encHigh v
  | .low => encLow v

/-- `class(b0)`: the class is told by the leading bits of byte 0, and every byte has one (R63). -/
def classOf (b0 : Byte) : LenClass :=
  if b0.getLsbD 7 = false then .one
  else if b0.getLsbD 6 = false then .two
  else if b0.getLsbD 5 = false then .three
  else if b0.getLsbD 4 = false then .four
  else .five

/-- `val_HIGH(n, b)` (R64). -/
def valHigh (n : LenClass) (b : Bytes5) : Word :=
  match n with
  | .one => wordField b.b0 6 0
  | .two => (wordField b.b0 5 0 <<< 8) ||| wordField b.b1 7 0
  | .three => (wordField b.b0 4 0 <<< 16) ||| (wordField b.b2 7 0 <<< 8) ||| wordField b.b1 7 0
  | .four =>
    (wordField b.b0 3 0 <<< 24) ||| (wordField b.b3 7 0 <<< 16) ||| (wordField b.b2 7 0 <<< 8) |||
      wordField b.b1 7 0
  | .five =>
    (wordField b.b4 7 0 <<< 24) ||| (wordField b.b3 7 0 <<< 16) ||| (wordField b.b2 7 0 <<< 8) |||
      wordField b.b1 7 0

/-- `val_LOW(n, b)` (R67). -/
def valLow (n : LenClass) (b : Bytes5) : Word :=
  match n with
  | .one => wordField b.b0 6 0
  | .two => wordField b.b0 5 0 ||| (wordField b.b1 7 0 <<< 6)
  | .three => wordField b.b0 4 0 ||| (wordField b.b1 7 0 <<< 5) ||| (wordField b.b2 7 0 <<< 13)
  | .four =>
    wordField b.b0 3 0 ||| (wordField b.b1 7 0 <<< 4) ||| (wordField b.b2 7 0 <<< 12) |||
      (wordField b.b3 7 0 <<< 20)
  | .five =>
    wordField b.b0 2 0 ||| (wordField b.b1 7 0 <<< 3) ||| (wordField b.b2 7 0 <<< 11) |||
      (wordField b.b3 7 0 <<< 19) ||| (wordField b.b4 4 0 <<< 27)

/-- `val(n, b)` for a value of BYTE0_ORDER (R90). -/
def val (o : Byte0Order) (n : LenClass) (b : Bytes5) : Word :=
  match o with
  | .high => valHigh n b
  | .low => valLow n b

/-- `noncanon5(b)`: a bit of a class-5 encoding that carries no value bit is set (R92). -/
def noncanon5 (o : Byte0Order) (b : Bytes5) : Bool :=
  match o with
  | .high => b.b0.extractLsb 3 0 != 0#4
  | .low => b.b0.getLsbD 3 || b.b4.extractLsb 7 5 != 0#3

end Sys2Proof.Machine
end

