-- ==== Sys2Proof/Machine/Ops.lean ====
section
/-! DEFINITION. The named operations that change the state: register writes, the use of inputs, the record of a model
fault, raising an error, and reset. -/

namespace Sys2Proof.Machine

/-- `CMD <- c` (R68). -/
def State.storeCmd (s : State) (c : Byte) : State := { s with cmd := c }

/-- A host write of IN_VALUE; it now counts as written (R21, R116 c). -/
def State.writeInValue (s : State) (v : Word) : State :=
  { s with inValue := v, written := { s.written with inValue := true } }

/-- A host write of IN_B[k]; it now counts as written (R21, R116 c). -/
def State.writeInB (s : State) (k : Fin 5) (b : Byte) : State :=
  { s with inB := setByteAt s.inB k b, written := markByteWritten s.written k }

/-- A host write of IN_AVAIL (R21, R23). -/
def State.writeInAvail (s : State) (n : Count) : State := { s with inAvail := n }

/-- `OUT_B[0..n−1] <- bytes ; OUT_LEN <- n`; the bytes from n on are not written (R27, R80). -/
def State.writeOutBytes (s : State) (bytes : List Byte) : State :=
  { s with outB := overwritePrefix bytes s.outB, outLen := BitVec.ofNat 3 bytes.length }

/-- `OUT_VALUE <- v`. -/
def State.writeOutValue (s : State) (v : Word) : State := { s with outValue := v }

/-- `OUT_CONSUMED <- n`. -/
def State.writeOutConsumed (s : State) (n : Count) : State := { s with outConsumed := n }

/-- Record a model fault. The record is never cleared (R116), and keeps the first one (notes/assumptions/15.md). -/
def State.recordModelFault (s : State) (m : ModelFault) : State :=
  { s with modelFault := s.modelFault.or (some m) }

/-- The first of some registers that is an input the host has not written since reset (R116 c). -/
def State.firstUnwritten (s : State) (rs : List Reg) : Option Reg := rs.find? (fun r => !s.inputWritten r)

/-- The use of the registers rs, in that order: a model fault is recorded if one of them is an input the host has
not written since reset (R34, R116 c, U4). The use itself goes on, as the hardware does (R131), from a free value
(`State.valueOperand`, `State.byteOperand`). -/
def State.useInputs (s : State) (rs : List Reg) : State :=
  match s.firstUnwritten rs with
  | some r => s.recordModelFault (.unwrittenInput r)
  | none => s

/-- The host accesses still to come. -/
def State.withPending (s : State) (es : List HostEvent) : State := { s with pending := es }

/-- The host gets one more value (R124). -/
def State.pushRead (s : State) (r : HostRead) : State := { s with reads := s.reads ++ [r] }

/-- `raise e`: the error's STATUS bit and STICKY are set, and nothing else happens (R18, R110, R115). It is the
only form an exception takes here: nothing is saved, no vector is taken and no mode changes, and there is
nothing to return from, because the next CMD write clears the bit (`State.clearCommandStatus`, R115). -/
def State.raise (s : State) (e : ErrorCause) : State := (s.setFlag e.flag).setFlag .sticky

/-- The reset event (R130): every register of the block takes its reset value and no input counts as written.
The host's side stays, and so does a recorded model fault, which is never cleared (R116). What the unwritten inputs
hold from now on is a new unspecified content (R34). -/
def State.resetBlock (s : State) : State :=
  { State.reset with
    modelFault := s.modelFault, resets := s.resets + 1, pending := s.pending, reads := s.reads }

end Sys2Proof.Machine
end

