-- ==== Sys2Proof/Machine/Zigzag.lean ====
section
/-! DEFINITION. The zigzag coder: the two maps (R102, R103) and the commands ZZ and UNZZ (R100, R101). -/

namespace Sys2Proof.Machine

/-- `zz(s) = (s << 1) ^ (s >>s 31)`, with an arithmetic right shift (R102). -/
def zz (s : Word) : Word := (s <<< 1) ^^^ s.sshiftRight 31

/-- `unzz(u) = (u >>u 1) ^ (-(u & 1))`, with a logical right shift (R103). -/
def unzz (u : Word) : Word := (u >>> 1) ^^^ (-(u &&& 1#32))

/-- The zigzag coder's effect for the value v: STATUS[5:0] is cleared, v goes to OUT_VALUE and VV is set (R25,
R100, R101). -/
def zigzagValue (v : Word) (s : State) : State := (s.clearCommandStatus.writeOutValue v).setFlag .vv

/-- A zigzag command: it reads IN_VALUE and gives its image under `f` (R100, R101). -/
def zigzagCommand (f : Word → Word) (s : State) : State :=
  zigzagValue (f s.valueOperand) (s.useInputs [.inValue])

/-- ZZ (R100). -/
def execZz (s : State) : Host.Outcome State Fault Refusal := .next (zigzagCommand zz s)

/-- UNZZ (R101). -/
def execUnzz (s : State) : Host.Outcome State Fault Refusal := .next (zigzagCommand unzz s)

end Sys2Proof.Machine
end

