-- ==== Sys2Proof/Machine/Decoder.lean ====
section
/-! DEFINITION. The varint decoder: DECU and DECS (R90, R91), with the checks in the order of R114. -/

namespace Sys2Proof.Machine

/-- The window bytes a decode reads, in the order it reads them (R90, R94): none with no byte available, byte 0
alone when there are too few bytes for its class, else the n bytes of the class. -/
def decodeInputs (s : State) : List Reg :=
  if s.avail = 0 then []
  else if s.avail < (classOf s.windowOperand.b0).bytes then [.inB 0]
  else (classOf s.windowOperand.b0).positions.map .inB

/-- The decoder's effect for the window w, under a byte order and a policy (R90, R91, R92): STATUS[5:0] is cleared;
with no byte available, or too few for the class of byte 0, it is short; a non-canonical class-5 encoding is an
error under the ERROR policy; otherwise the value goes through `post` to OUT_VALUE, the class to OUT_CONSUMED, and
VV and CV are set. -/
def decodeWindow (o : Byte0Order) (pol : Noncanon5Policy) (post : Word → Word) (w : Bytes5) (s : State) : State :=
  if s.avail = 0 then s.clearCommandStatus.raise .decodeShort
  else if s.avail < (classOf w.b0).bytes then s.clearCommandStatus.raise .decodeShort
  else if classOf w.b0 = .five ∧ noncanon5 o w = true ∧ pol = .error then
    s.clearCommandStatus.raise .decodeNonCanonical
  else
    (((s.clearCommandStatus.writeOutValue (post (val o (classOf w.b0) w))).writeOutConsumed
      (classOf w.b0).count).setFlag .vv).setFlag .cv

/-- A decode command: it reads IN_AVAIL and the window bytes of `decodeInputs` (R90, R91). -/
def decodeCommand (o : Byte0Order) (pol : Noncanon5Policy) (post : Word → Word) (s : State) : State :=
  decodeWindow o pol post s.windowOperand (s.useInputs (decodeInputs s))

/-- DECU (R90). -/
def execDecu (s : State) : Host.Outcome State Fault Refusal :=
  .next (decodeCommand Config.byte0Order Config.noncanon5Policy id s)

/-- DECS: the value goes through unzigzag after every check (R91). -/
def execDecs (s : State) : Host.Outcome State Fault Refusal :=
  .next (decodeCommand Config.byte0Order Config.noncanon5Policy unzz s)

end Sys2Proof.Machine
end

