-- ==== Sys2Proof/Machine/Encoder.lean ====
section
/-! DEFINITION. The varint encoder: ENCU and ENCS (R80, R81). -/

namespace Sys2Proof.Machine

/-- The encoder's effect for the value v: STATUS[5:0] is cleared, the encoding goes to OUT_B and OUT_LEN, and BV
is set (R25, R80, R81). -/
def encodeValue (o : Byte0Order) (v : Word) (s : State) : State :=
  (s.clearCommandStatus.writeOutBytes (enc o v)).setFlag .bv

/-- An encode command: it reads IN_VALUE and encodes its image under `pre` (R80, R81). -/
def encodeCommand (o : Byte0Order) (pre : Word → Word) (s : State) : State :=
  encodeValue o (pre s.valueOperand) (s.useInputs [.inValue])

/-- ENCU (R80). -/
def execEncu (s : State) : Host.Outcome State Fault Refusal :=
  .next (encodeCommand Config.byte0Order id s)

/-- ENCS (R81). -/
def execEncs (s : State) : Host.Outcome State Fault Refusal :=
  .next (encodeCommand Config.byte0Order zz s)

end Sys2Proof.Machine
end

