-- ==== Sys2Proof/Machine/Dispatch.lean ====
section
/-! DEFINITION. The commands and their meanings, one arm per constructor of Instr. -/

namespace Sys2Proof.Machine

/-- What an issued command does, after CMD was stored (R68 to R70). -/
def exec (i : Instr) (s : State) : Host.Outcome State Fault Refusal :=
  match i with
  | .encu => Sys2Proof.Machine.execEncu s
  | .encs => Sys2Proof.Machine.execEncs s
  | .decu => Sys2Proof.Machine.execDecu s
  | .decs => Sys2Proof.Machine.execDecs s
  | .zz => Sys2Proof.Machine.execZz s
  | .unzz => Sys2Proof.Machine.execUnzz s

end Sys2Proof.Machine
end

