-- ==== Sys2Proof/Machine/HostPort.lean ====
section
/-! DEFINITION. The host's side of a step: issuing a command, register writes and reads, reset, and a second host
(R20 to R22, R47 to R49, R54, R68, R130). -/

namespace Sys2Proof.Machine

/-- A host write of c to CMD (R68): c is stored, and the command is decoded and performed as one step (R140). A
value that is no command clears STATUS[5:0] and raises IllegalCommand before any operand is read (R71, R114). -/
def issueCommand (c : Byte) (s : State) : Host.Outcome State Fault Refusal :=
  match decodeByte c with
  | .ok i => exec i (s.storeCmd c)
  | .error _ => .next ((s.storeCmd c).clearCommandStatus.raise .illegalCommand)

/-- `WR r, v` (R21, R22): a register keeps the low bits of its width, a write to a read-only register has no
effect, and only CMD has a side effect (R48). -/
def writeReg (r : Reg) (v : Word) (s : State) : Host.Outcome State Fault Refusal :=
  match r with
  | .cmd => issueCommand (v.setWidth 8) s
  | .inValue => .next (s.writeInValue v)
  | .inB k => .next (s.writeInB k (v.setWidth 8))
  | .inAvail => .next (s.writeInAvail (v.setWidth 3))
  | .status => .next s
  | .outB _ => .next s
  | .outLen => .next s
  | .outValue => .next s
  | .outConsumed => .next s

/-- `RD r` (R21): the host gets the register's content and nothing else of the block changes (R48), unless the
register is an output without a valid result (R26, R27). The read of an input not written since reset is a model
fault, recorded, and gives a free value (R34, R116 c). -/
def readReg (r : Reg) (s : State) : Host.Outcome State Fault Refusal :=
  match s.readFault r with
  | some f => .fault f
  | none => .next ((s.useInputs [r]).pushRead ⟨r, s.content r⟩)

/-- One event of the outside world (R22 c, R54, R124, R130). -/
def performEvent (e : HostEvent) (s : State) : Host.Outcome State Fault Refusal :=
  match e with
  | .write n v =>
    match regOfNumber n with
    | some r => writeReg r v s
    | none => .refused (.noSuchRegister n)
  | .read n =>
    match regOfNumber n with
    | some r => readReg r s
    | none => .refused (.noSuchRegister n)
  | .reset => .next s.resetBlock
  | .secondHost => .refused .sharedBySecondHost

/-- The next event in the host's order (R49), taken from the accesses to come; with none, the block is idle
and loses no state (R20, R123). -/
def performNext (s : State) : Host.Outcome State Fault Refusal :=
  match s.pending with
  | [] => .next s
  | e :: rest => performEvent e (s.withPending rest)

end Sys2Proof.Machine
end

