-- ==== Sys2Proof/Machine/Step.lean ====
section
/-! DEFINITION. The step of the machine, and how the host's check places an instruction where it comes next. -/

namespace Sys2Proof.Machine

/-- One step: the next host event, performed whole (R20, R47, R49, R140). -/
def step (s : State) : Host.Outcome State Fault Refusal := performNext s

/-- The state whose next event issues the command of the given bits: the block fetches nothing, so a program
is the host's own sequence of accesses (R30, R52, R124; notes/assumptions/4.md). -/
def State.withFetchWord (s : State) (nbits w : Nat) : State :=
  s.withPending (.write 0 ((commandByte nbits w).setWidth 32) :: s.pending)

end Sys2Proof.Machine
end

