-- ==== Sys2Proof/WellFormed.lean ====
section
/-! DEFINITION. Well-formedness of what a host may present: commands, accesses, and the byte list of the DECU and
DECS pseudo-instructions. -/

namespace Sys2Proof

/-- A command has no operand, register or immediate field (R69), so there is nothing to check: every one is
well formed. -/
def Instr.wf : Instr → Bool
  | .encu => true
  | .encs => true
  | .decu => true
  | .decs => true
  | .zz => true
  | .unzz => true

/-- The register numbers are 0 to 16 (R21). -/
def registerNumberWf (n : Nat) : Bool := n < 17

/-- An event the spec gives a meaning: an access of the one host to an existing register, or reset
(R22 c, R54). -/
def hostEventWf : Machine.HostEvent → Bool
  | .write n _ => registerNumberWf n
  | .read n => registerNumberWf n
  | .reset => true
  | .secondHost => false

/-- The byte list of `DECU [b0, .., bk-1]`: 1 ≤ k ≤ 5 (R73). -/
def windowBytesWf (bs : List Byte) : Bool := 1 ≤ bs.length && bs.length ≤ 5

end Sys2Proof
end

