-- ==== Sys2Proof/Machine/HostProgram.lean ====
section
/-! DEFINITION. What a host writes down: the assembly lines of R73 and the accesses they stand for, the 16-bit
convention (R84), and how a window is presented from a byte sequence (R125). -/

namespace Sys2Proof.Machine

/-- A line of host assembly (R73). A register is given by its number; the name a read gives its value is the
host's own and is not part of the line here. -/
inductive AsmLine where
  /-- `WR <reg>, <value>`. -/
  | wr (reg : Nat) (value : Word)
  /-- `RD <reg> -> <name>`. -/
  | rd (reg : Nat)
  /-- A command mnemonic alone. -/
  | command (i : Instr)
  /-- `ENCU #v`. -/
  | encuValue (v : Word)
  /-- `ENCS #v`, v as its two's-complement pattern. -/
  | encsValue (v : Word)
  /-- `ZZ #v`, v as its two's-complement pattern. -/
  | zzValue (v : Word)
  /-- `UNZZ #v`. -/
  | unzzValue (v : Word)
  /-- `DECU [b0, .., bk-1]`. -/
  | decuBytes (bs : List Byte)
  /-- `DECS [b0, .., bk-1]`. -/
  | decsBytes (bs : List Byte)
  deriving DecidableEq, Repr

/-- A command mnemonic is `WR CMD, <CMD value>` (R73). -/
def commandEvent (i : Instr) : HostEvent := .write 0 ((encodeByte i).setWidth 32)

/-- `WR IN_B0, b0 ; ..` from register number n on (R73). -/
def windowWrites (n : Nat) : List Byte → List HostEvent
  | [] => []
  | b :: bs => .write n (b.setWidth 32) :: windowWrites (n + 1) bs

/-- The window bytes and then IN_AVAIL (R73). -/
def windowEvents (bs : List Byte) : List HostEvent :=
  windowWrites 3 bs ++ [.write 8 (BitVec.ofNat 32 bs.length)]

/-- The accesses a line stands for (R73); a byte list of 0 or more than 5 bytes is no line. -/
def expandLine : AsmLine → Option (List HostEvent)
  | .wr n v => some [.write n v]
  | .rd n => some [.read n]
  | .command i => some [commandEvent i]
  | .encuValue v => some [.write 2 v, commandEvent .encu]
  | .encsValue v => some [.write 2 v, commandEvent .encs]
  | .zzValue v => some [.write 2 v, commandEvent .zz]
  | .unzzValue v => some [.write 2 v, commandEvent .unzz]
  | .decuBytes bs => if windowBytesWf bs then some (windowEvents bs ++ [commandEvent .decu]) else none
  | .decsBytes bs => if windowBytesWf bs then some (windowEvents bs ++ [commandEvent .decs]) else none

/-- `add_varint_u16(v)`: the host zero-extends and uses ENCU (R84, R125). -/
def varintU16Line (v : BitVec 16) : AsmLine := .encuValue (v.setWidth 32)

/-- The host presents the bytes at offset o of its byte sequence: up to 5 of them, and
IN_AVAIL = min(remaining, 5) (R45, R125). -/
def presentWindow (bytes : List Byte) (o : Nat) : List HostEvent :=
  windowEvents ((bytes.drop o).take 5)

end Sys2Proof.Machine
end

