-- ==== Sys2Proof/Machine/System.lean ====
section
/-! DEFINITION. Several blocks side by side: parameter INSTANCES (R12, R122). The spec's rules are of one instance, and
`core` is one instance; this file says what any number of them is. -/

namespace Sys2Proof.Machine

/-- Instance k of n takes a step. Each instance has its own copy of every register and its own host, and
instances share no state (R12, R122).
DESIGN CHOICE (notes/assumptions/21.md): what is read in an input not written since reset is the same free value in
instances with equal `resets`; the spec leaves that content unspecified for each copy.
DESIGN CHOICE (notes/assumptions/20.md): the spec does not say what a model fault or a refusal of one instance
does to the others. Here a read that faults stops its own instance, which keeps the access, records the fault and
faults at every later step of its own, and every other instance goes on; a refused access of one instance refuses
the step of all. -/
def stepInstance {n : Nat} (k : Fin n) (blocks : Vector State n) :
    Host.Outcome (Vector State n) Fault Refusal :=
  match step blocks[k] with
  | .next s => .next (blocks.set k s)
  | .fault f => .next (blocks.set k (blocks[k].recordModelFault (.stopped f)))
  | .refused r => .refused r

end Sys2Proof.Machine
end

