-- ==== Sys2Proof/Safety.lean ====
section
/-! DEFINITION. The terms claims are stated in: what a command may not change, which inputs it uses, the invariant of
STATUS, what of a state is determined, and the wire format and the zigzag map as integer arithmetic. -/

namespace Sys2Proof.Machine

/-- What no command changes (R48, R82, R142): CMD, the input registers, STATUS bit 7, and the host's side. STICKY
is not cleared and a recorded model fault stays (R25, R116). -/
structure CommandFrame (s t : State) : Prop where
  cmd : t.cmd = s.cmd
  inValue : t.inValue = s.inValue
  inB : t.inB = s.inB
  inAvail : t.inAvail = s.inAvail
  written : t.written = s.written
  pending : t.pending = s.pending
  reads : t.reads = s.reads
  reserved : t.status.getLsbD 7 = s.status.getLsbD 7
  sticky : s.flag .sticky = true → t.flag .sticky = true
  modelFault : s.modelFault.isSome = true → t.modelFault = s.modelFault
  resets : t.resets = s.resets

/-- The output registers that belong to the decoder and the zigzag coder are unchanged. -/
structure ValueOutputsKept (s t : State) : Prop where
  outValue : t.outValue = s.outValue
  outConsumed : t.outConsumed = s.outConsumed

/-- The output registers that belong to the encoder are unchanged. -/
structure ByteOutputsKept (s t : State) : Prop where
  outB : t.outB = s.outB
  outLen : t.outLen = s.outLen

/-- The nine fields of State that are the block's 17 registers, with STATUS left out. -/
structure RegistersKeptButStatus (s t : State) : Prop where
  cmd : t.cmd = s.cmd
  inValue : t.inValue = s.inValue
  inB : t.inB = s.inB
  inAvail : t.inAvail = s.inAvail
  outB : t.outB = s.outB
  outLen : t.outLen = s.outLen
  outValue : t.outValue = s.outValue
  outConsumed : t.outConsumed = s.outConsumed

/-- STATUS describes the most recent command (R24, R25, R112), and the results it marks valid have the form that
command gives them (R83, R94). -/
structure StatusInv (s : State) : Prop where
  reserved : s.status.getLsbD 7 = false
  oneError : (s.flag .eshort && s.flag .enoncanon) = false ∧ (s.flag .eshort && s.flag .eill) = false ∧
    (s.flag .enoncanon && s.flag .eill) = false
  errorNoResult : (s.flag .eshort || s.flag .enoncanon || s.flag .eill) = true →
    s.flag .bv = false ∧ s.flag .vv = false ∧ s.flag .cv = false ∧ s.flag .sticky = true
  bytesResult : s.flag .bv = true → s.flag .vv = false ∧ s.flag .cv = false ∧ (s.cmd = 0x01#8 ∨ s.cmd = 0x02#8) ∧
    s.outLen = (classOf s.outB.b0).count ∧ (classOf s.outB.b0 = .five → s.outB.b0 = 0xF0#8)
  consumedResult : s.flag .cv = true → s.flag .vv = true ∧ (s.cmd = 0x03#8 ∨ s.cmd = 0x04#8) ∧
    1 ≤ s.outConsumed.toNat ∧ s.outConsumed.toNat ≤ 5
  valueResult : s.flag .vv = true → s.flag .cv = false → s.cmd = 0x05#8 ∨ s.cmd = 0x06#8
  decodeError : (s.flag .eshort || s.flag .enoncanon) = true → s.cmd = 0x03#8 ∨ s.cmd = 0x04#8
  policyError : s.flag .enoncanon = true → Config.noncanon5Policy = .error
  illegal : s.flag .eill = true → s.cmd = 0x00#8 ∨ 0x07#8 ≤ s.cmd
  beforeAnyCommand : s.status &&& 0x3F#8 = 0#8 → s.cmd = 0x00#8 ∧ s.flag .sticky = false

/-- Two states that differ at most in content the spec gives no value: input registers not written since reset
(R34), outputs whose valid bit is 0 (R26), and OUT_B bytes at or beyond OUT_LEN (R27). -/
structure SameDetermined (s t : State) : Prop where
  cmd : t.cmd = s.cmd
  status : t.status = s.status
  inAvail : t.inAvail = s.inAvail
  written : t.written = s.written
  modelFault : t.modelFault = s.modelFault
  resets : t.resets = s.resets
  pending : t.pending = s.pending
  reads : t.reads = s.reads
  inValue : s.written.inValue = true → t.inValue = s.inValue
  inB : ∀ k : Fin 5, byteWritten s.written k = true → byteAt t.inB k = byteAt s.inB k
  outLen : s.flag .bv = true → t.outLen = s.outLen
  outB : s.flag .bv = true → ∀ k : Fin 5, k.val < s.outLen.toNat → byteAt t.outB k = byteAt s.outB k
  outValue : s.flag .vv = true → t.outValue = s.outValue
  outConsumed : s.flag .cv = true → t.outConsumed = s.outConsumed

/-- The length table of R60 and R61 as arithmetic. -/
def lengthOfValue (v : Nat) : Nat :=
  if v ≤ 0x7F then 1 else if v ≤ 0x3FFF then 2 else if v ≤ 0x1FFFFF then 3 else if v ≤ 0x0FFFFFFF then 4 else 5

/-- The byte-0 ranges of R60 and R63 as arithmetic. -/
def lengthOfByte0 (b0 : Nat) : Nat :=
  if b0 < 0x80 then 1 else if b0 < 0xC0 then 2 else if b0 < 0xE0 then 3 else if b0 < 0xF0 then 4 else 5

/-- How many window bytes a decode reads, byte 0 first: the class's length when that many are available, else
byte 0 alone if there is one (R90, R94). -/
def windowBytesRead (s : State) : Nat :=
  if lengthOfByte0 s.inB.b0.toNat ≤ min s.inAvail.toNat 5 then lengthOfByte0 s.inB.b0.toNat
  else min s.inAvail.toNat 1

/-- The host has written every input register the command reads (R69, R116 c, R132). -/
def commandReady (i : Instr) (s : State) : Bool :=
  match i with
  | .encu => s.inputWritten .inValue
  | .encs => s.inputWritten .inValue
  | .zz => s.inputWritten .inValue
  | .unzz => s.inputWritten .inValue
  | .decu => decide (∀ k : Fin 5, k.val < windowBytesRead s → s.inputWritten (.inB k) = true)
  | .decs => decide (∀ k : Fin 5, k.val < windowBytesRead s → s.inputWritten (.inB k) = true)

/-- The state in which the host has written in every input what a command reads there: where an input was not
written, its free value. -/
def State.withOperandsWritten (s : State) : State :=
  { s with
    inValue := s.valueOperand, inB := s.windowOperand, written := ⟨true, true, true, true, true, true⟩ }

/-- The bytes of a value under BYTE0_ORDER = HIGH, by division (R62). -/
def highBytes (v : Nat) : List Nat :=
  if v ≤ 0x7F then [v]
  else if v ≤ 0x3FFF then [0x80 + v / 2 ^ 8, v % 256]
  else if v ≤ 0x1FFFFF then [0xC0 + v / 2 ^ 16, v % 256, v / 2 ^ 8 % 256]
  else if v ≤ 0x0FFFFFFF then [0xE0 + v / 2 ^ 24, v % 256, v / 2 ^ 8 % 256, v / 2 ^ 16 % 256]
  else [0xF0, v % 256, v / 2 ^ 8 % 256, v / 2 ^ 16 % 256, v / 2 ^ 24]

/-- The bytes of a value under BYTE0_ORDER = LOW, by division (R66). -/
def lowBytes (v : Nat) : List Nat :=
  if v ≤ 0x7F then [v]
  else if v ≤ 0x3FFF then [0x80 + v % 2 ^ 6, v / 2 ^ 6]
  else if v ≤ 0x1FFFFF then [0xC0 + v % 2 ^ 5, v / 2 ^ 5 % 256, v / 2 ^ 13]
  else if v ≤ 0x0FFFFFFF then [0xE0 + v % 2 ^ 4, v / 2 ^ 4 % 256, v / 2 ^ 12 % 256, v / 2 ^ 20]
  else [0xF0 + v % 2 ^ 3, v / 2 ^ 3 % 256, v / 2 ^ 11 % 256, v / 2 ^ 19 % 256, v / 2 ^ 27]

/-- The value of a window under BYTE0_ORDER = HIGH, by multiplication (R64). -/
def highValue (b : Bytes5) : Nat :=
  if b.b0.toNat < 0x80 then b.b0.toNat
  else if b.b0.toNat < 0xC0 then (b.b0.toNat - 0x80) * 2 ^ 8 + b.b1.toNat
  else if b.b0.toNat < 0xE0 then (b.b0.toNat - 0xC0) * 2 ^ 16 + b.b2.toNat * 2 ^ 8 + b.b1.toNat
  else if b.b0.toNat < 0xF0 then
    (b.b0.toNat - 0xE0) * 2 ^ 24 + b.b3.toNat * 2 ^ 16 + b.b2.toNat * 2 ^ 8 + b.b1.toNat
  else b.b4.toNat * 2 ^ 24 + b.b3.toNat * 2 ^ 16 + b.b2.toNat * 2 ^ 8 + b.b1.toNat

/-- The value of a window under BYTE0_ORDER = LOW, by multiplication; the bits of a class-5 encoding that carry
no value bit are left out (R67, R92). -/
def lowValue (b : Bytes5) : Nat :=
  if b.b0.toNat < 0x80 then b.b0.toNat
  else if b.b0.toNat < 0xC0 then (b.b0.toNat - 0x80) + b.b1.toNat * 2 ^ 6
  else if b.b0.toNat < 0xE0 then (b.b0.toNat - 0xC0) + b.b1.toNat * 2 ^ 5 + b.b2.toNat * 2 ^ 13
  else if b.b0.toNat < 0xF0 then
    (b.b0.toNat - 0xE0) + b.b1.toNat * 2 ^ 4 + b.b2.toNat * 2 ^ 12 + b.b3.toNat * 2 ^ 20
  else b.b0.toNat % 2 ^ 3 + b.b1.toNat * 2 ^ 3 + b.b2.toNat * 2 ^ 11 + b.b3.toNat * 2 ^ 19 +
    b.b4.toNat % 2 ^ 5 * 2 ^ 27

/-- A class-5 encoding with a bit set that carries no value bit, by arithmetic (R92). -/
def Noncanonical (o : Byte0Order) (b : Bytes5) : Prop :=
  0xF0 ≤ b.b0.toNat ∧
    match o with
    | .high => b.b0.toNat % 16 ≠ 0
    | .low => 8 ≤ b.b0.toNat % 16 ∨ 0x20 ≤ b.b4.toNat

/-- The zigzag map over the integers (R102). -/
def zigzagInt (i : Int) : Int := if 0 ≤ i then 2 * i else -2 * i - 1

/-- The inverse map over the integers (R103). -/
def unzigzagInt (u : Int) : Int := if u % 2 = 0 then u / 2 else -((u + 1) / 2)

/-- The encoder's result in a state: OUT_B[0..n−1] are the given bytes and OUT_LEN is their count. -/
def OutputIs (bytes : List Nat) (t : State) : Prop :=
  t.outLen.toNat = bytes.length ∧ ∀ k : Fin 5, ∀ b ∈ bytes[k.val]?, (byteAt t.outB k).toNat = b

/-- STATUS after a command that ends with bits f of STATUS[5:0] set: STICKY and bit 7 as before (R25). -/
def statusAfter (s : State) (f : Byte) : Byte := (s.status &&& 0xC0#8) ||| f

end Sys2Proof.Machine
end

