-- ==== Sys2Proof/Certificates/Slice0/Obligations.lean ====
section
/-! DEFINITION. The statements for the provers, from the numbered rules of spec/ (OBLIGATIONS.json lists them). -/

open Sys2Proof Sys2Proof.Machine

/-- R34, R130: what the spec says of the state after reset. No clause rests on a value the model chose. -/
def Obligations.ResetHasStatedValues : Prop :=
  State.reset.cmd = 0x00#8 ∧ State.reset.status = 0x00#8 ∧ State.reset.inAvail = 0#3 ∧
    State.reset.inputWritten .inValue = false ∧ (∀ k : Fin 5, State.reset.inputWritten (.inB k) = false) ∧
    (∀ k : Fin 5, State.reset.readFault (.outB k) = some (.invalidOutput (.outB k))) ∧
    State.reset.readFault .outLen = some (.invalidOutput .outLen) ∧
    State.reset.readFault .outValue = some (.invalidOutput .outValue) ∧
    State.reset.readFault .outConsumed = some (.invalidOutput .outConsumed)

/-- R130, R116: the reset event in any state. The host's side and a recorded model fault stay. -/
def Obligations.ResetEventRestoresStatedValues : Prop :=
  ∀ (s : State) (rest : List HostEvent), s.pending = .reset :: rest →
    ∃ t, step s = .next t ∧ t.cmd = 0x00#8 ∧ t.status = 0x00#8 ∧ t.inAvail = 0#3 ∧
      t.inputWritten .inValue = false ∧ (∀ k : Fin 5, t.inputWritten (.inB k) = false) ∧
      t.modelFault = s.modelFault ∧ t.pending = rest ∧ t.reads = s.reads

/-- R130, R24: reset is the only event that clears STICKY. -/
def Obligations.StickyClearedOnlyByReset : Prop :=
  ∀ s t : State, step s = .next t → s.flag .sticky = true → t.flag .sticky = false →
    ∃ rest, s.pending = .reset :: rest

/-- R131, R116: a decode straight after reset raises DecodeShort and is no model fault; the other commands are a model
fault, recorded for the unwritten IN_VALUE, and nothing is said of their result. -/
def Obligations.CommandsStraightAfterReset : Prop :=
  ∀ s : State, s.modelFault = none →
    (∀ i, i = .decu ∨ i = .decs →
      ∃ t, exec i s.resetBlock = .next t ∧ t.status = 0x48#8 ∧ RegistersKeptButStatus s.resetBlock t ∧
        t.modelFault = none) ∧
    ∀ i, i = .encu ∨ i = .encs ∨ i = .zz ∨ i = .unzz →
      ∃ t, exec i s.resetBlock = .next t ∧ t.modelFault = some (.unwrittenInput .inValue)

/-- R70: a few command words, written out from the opcode map. -/
def Obligations.OpcodeMapWords : Prop :=
  decode [0b00000001#8] = .ok (.encu, []) ∧ decode [0b00000010#8] = .ok (.encs, []) ∧
    decode [0b00000011#8] = .ok (.decu, []) ∧ decode [0b00000100#8] = .ok (.decs, []) ∧
    decode [0b00000101#8] = .ok (.zz, []) ∧ decode [0b00000110#8] = .ok (.unzz, []) ∧
    decode [0b00000000#8] = .error (.reservedOp 0x00#8) ∧ decode [0b00000111#8] = .error (.reservedOp 0x07#8) ∧
    decode [0b00001001#8] = .error (.reservedBits 0x09#8)

/-- R68, R70: decoding an encoded command gives it back with the bytes after it, and a CMD value decodes to a
command only if it is that command's encoding. -/
def Obligations.CommandDecodeEncodeAgree : Prop :=
  (∀ (i : Instr) (rest : List Byte), decode (encode i ++ rest) = .ok (i, rest)) ∧
    ∀ (c : Byte) (i : Instr), decodeByte c = .ok i → encodeByte i = c

/-- R68, R140: a CMD write of a word that decodes runs the decoded command, after CMD took the word and the
access left the queue. -/
def Obligations.StepRunsDecodedCommand : Prop :=
  ∀ (s : State) (v : Word) (rest : List HostEvent) (i : Instr), s.pending = .write 0 v :: rest →
    decodeByte (v.setWidth 8) = .ok i →
    step s = exec i { s with cmd := v.setWidth 8, pending := rest }

/-- R71, R111, R112, R114: CMD values 0x00, 0x07 and above raise IllegalCommand and change nothing else. -/
def Obligations.IllegalCommandEffect : Prop :=
  ∀ (s : State) (v : Word) (rest : List HostEvent), s.pending = .write 0 v :: rest →
    (v.toNat % 256 = 0 ∨ 7 ≤ v.toNat % 256) →
    step s = .next { s with cmd := v.setWidth 8, status := statusAfter s 0x60#8, pending := rest }

/-- R20, R123: with no access to come the block is idle and loses no state. -/
def Obligations.IdleStepKeepsState : Prop :=
  ∀ s : State, s.pending = [] → step s = .next s

/-- R140, R142, R131: every command completes in one step from every state, whatever the OPEN policy and whether or
not its inputs are written, and changes no input register, not CMD, and nothing on the host's side. -/
def Obligations.EveryCommandCompletes : Prop :=
  ∀ (i : Instr) (s : State), ∃ t, exec i s = .next t ∧ CommandFrame s t

/-- R25: STATUS[5:0] before a CMD write does not matter, STICKY and bit 7 are not cleared, of the three error bits
at most one is 1 after it, with no valid bit and with STICKY, and a command that ends without error sets just
the valid bits of the outputs it wrote. -/
def Obligations.CommandIssueClearsStatus : Prop :=
  ∀ (s : State) (v : Word) (rest : List HostEvent), s.pending = .write 0 v :: rest →
    ∃ t, step s = .next t ∧ step { s with status := s.status &&& 0xC0#8 } = .next t ∧
      t.status.getLsbD 7 = s.status.getLsbD 7 ∧ (s.flag .sticky = true → t.flag .sticky = true) ∧
      (t.flag .eshort && t.flag .enoncanon) = false ∧ (t.flag .eshort && t.flag .eill) = false ∧
      (t.flag .enoncanon && t.flag .eill) = false ∧
      ((t.flag .eshort || t.flag .enoncanon || t.flag .eill) = true →
        t.flag .bv = false ∧ t.flag .vv = false ∧ t.flag .cv = false ∧ t.flag .sticky = true) ∧
      ((t.flag .eshort || t.flag .enoncanon || t.flag .eill) = false →
        t.status &&& 0x3F#8 =
          if v.toNat % 256 ≤ 2 then 0x01#8 else if v.toNat % 256 ≤ 4 then 0x06#8 else 0x02#8)

/-- R61: OUT_LEN after ENCU is the length the value's range gives, for every value the host has written. -/
def Obligations.EncuLengthByRange : Prop :=
  ∀ s : State, s.inputWritten .inValue = true → ∃ t, exec .encu s = .next t ∧
    t.outLen.toNat =
      if s.inValue.toNat ≤ 0x7F then 1
      else if s.inValue.toNat ≤ 0x3FFF then 2
      else if s.inValue.toNat ≤ 0x1FFFFF then 3
      else if s.inValue.toNat ≤ 0x0FFFFFFF then 4
      else 5

/-- R62, R80: ENCU's bytes by division, and STATUS, for every value the host has written (R116 c). -/
def Obligations.EncuWritesHighBytes : Prop :=
  ∀ s : State, s.inputWritten .inValue = true →
    ∃ t, exec .encu s = .next t ∧ OutputIs (highBytes s.inValue.toNat) t ∧
    t.status = statusAfter s 0x01#8

/-- R81, R102: ENCS's bytes are those of the zigzag image over the integers, and STATUS. -/
def Obligations.EncsWritesZigzagBytes : Prop :=
  ∀ s : State, s.inputWritten .inValue = true →
    ∃ t, exec .encs s = .next t ∧ OutputIs (highBytes (zigzagInt s.inValue.toInt).toNat) t ∧
    t.status = statusAfter s 0x01#8

/-- R82: the encoder's result depends on IN_VALUE alone, and only the registers its rules name are written. -/
def Obligations.EncoderReadsOnlyInValue : Prop :=
  ∀ (i : Instr) (s s' : State), i = .encu ∨ i = .encs → s.inputWritten .inValue = true →
    s'.inputWritten .inValue = true → s'.inValue = s.inValue →
    ∃ t t', exec i s = .next t ∧ exec i s' = .next t' ∧ t'.outLen = t.outLen ∧
      (∀ k : Fin 5, k.val < t.outLen.toNat → byteAt t'.outB k = byteAt t.outB k) ∧
      t'.status &&& 0x3F#8 = t.status &&& 0x3F#8 ∧ CommandFrame s t ∧ ValueOutputsKept s t ∧
      ∀ k : Fin 5, t.outLen.toNat ≤ k.val → byteAt t.outB k = byteAt s.outB k

/-- R83: OUT_LEN is the minimal length, no shorter class holds the value, and a class-5 byte 0 is 0xF0. -/
def Obligations.EncoderOutputMinimal : Prop :=
  ∀ (i : Instr) (s : State) (x : Word), s.inputWritten .inValue = true →
    (i = .encu ∧ x = s.inValue) ∨ (i = .encs ∧ x = zz s.inValue) →
    ∃ t, exec i s = .next t ∧ t.outLen.toNat = lengthOfValue x.toNat ∧
      (t.outLen.toNat = 5 → t.outB.b0 = 0xF0#8) ∧
      ∀ (c : LenClass) (b : Bytes5), val .high c b = x → t.outLen.toNat ≤ c.bytes

/-- R27: an encode leaves the bytes from OUT_LEN on, and a host read of one of them stops, whatever BV is. -/
def Obligations.StaleOutputBytes : Prop :=
  (∀ (i : Instr) (s : State), i = .encu ∨ i = .encs →
    ∃ t, exec i s = .next t ∧ ∀ k : Fin 5, t.outLen.toNat ≤ k.val → byteAt t.outB k = byteAt s.outB k) ∧
  ∀ (s : State) (k : Fin 5) (rest : List HostEvent), s.pending = .read (9 + k.val) :: rest →
    s.outLen.toNat ≤ k.val → ∃ f, step s = .fault f

/-- R84: a zero-extended 16-bit value takes 1 to 3 bytes. -/
def Obligations.SixteenBitValueTakesAtMostThreeBytes : Prop :=
  ∀ (s : State) (v : BitVec 16), s.inputWritten .inValue = true → s.inValue = v.setWidth 32 →
    ∃ t, exec .encu s = .next t ∧ 1 ≤ t.outLen.toNat ∧ t.outLen.toNat ≤ 3

/-- R64, R90, R93: DECU of a window with enough bytes whose byte 0 is at most 0xF0, by multiplication. Overlong
encodings are among these windows. -/
def Obligations.DecuDecodesWindow : Prop :=
  ∀ s : State, lengthOfByte0 s.inB.b0.toNat ≤ min s.inAvail.toNat 5 → s.inB.b0.toNat ≤ 0xF0 →
    (∀ k : Fin 5, k.val < lengthOfByte0 s.inB.b0.toNat → s.inputWritten (.inB k) = true) →
    ∃ t, exec .decu s = .next t ∧ t.outValue.toNat = highValue s.inB ∧
      t.outConsumed.toNat = lengthOfByte0 s.inB.b0.toNat ∧ t.status = statusAfter s 0x06#8

/-- R91, R103: DECS of such a window, through the inverse zigzag map over the integers. -/
def Obligations.DecsDecodesWindow : Prop :=
  ∀ s : State, lengthOfByte0 s.inB.b0.toNat ≤ min s.inAvail.toNat 5 → s.inB.b0.toNat ≤ 0xF0 →
    (∀ k : Fin 5, k.val < lengthOfByte0 s.inB.b0.toNat → s.inputWritten (.inB k) = true) →
    ∃ t, exec .decs s = .next t ∧ t.outValue.toInt = unzigzagInt (highValue s.inB) ∧
      t.outConsumed.toNat = lengthOfByte0 s.inB.b0.toNat ∧ t.status = statusAfter s 0x06#8

/-- R92, R10: DECU and DECS of a five-byte window whose byte 0 is above 0xF0, under the policy this machine has,
which is OPEN. -/
def Obligations.DecodeNoncanonicalWindow : Prop :=
  ∀ s : State, 5 ≤ s.inAvail.toNat → 0xF0 < s.inB.b0.toNat → (∀ k : Fin 5, s.inputWritten (.inB k) = true) →
    ∃ t t', exec .decu s = .next t ∧ exec .decs s = .next t' ∧ t'.status = t.status ∧
      if Config.noncanon5Policy = .error then
        t.status = statusAfter s 0x50#8 ∧ ValueOutputsKept s t ∧ ValueOutputsKept s t'
      else
        t.status = statusAfter s 0x06#8 ∧ t.outConsumed = 5#3 ∧ t'.outConsumed = 5#3 ∧
          t.outValue.toNat = highValue s.inB ∧ t'.outValue.toInt = unzigzagInt (highValue s.inB)

/-- R92: for either byte order, a written non-canonical class-5 encoding whose length check passed is an error under
ERROR and its value under IGNORE; on every other window, as the decoder reads it, the policy makes no difference; and
the encoder produces no such encoding. -/
def Obligations.NoncanonicalPolicyDecides : Prop :=
  (∀ (o : Byte0Order) (post : Word → Word) (s : State), 5 ≤ s.inAvail.toNat → Noncanonical o s.inB →
    (∀ k : Fin 5, s.inputWritten (.inB k) = true) →
    (decodeCommand o .error post s).status = statusAfter s 0x50#8 ∧
    RegistersKeptButStatus s (decodeCommand o .error post s) ∧
    (decodeCommand o .ignore post s).status = statusAfter s 0x06#8 ∧
    (decodeCommand o .ignore post s).outValue = post (val o .five s.inB) ∧
    (decodeCommand o .ignore post s).outConsumed = 5#3) ∧
  (∀ (o : Byte0Order) (post : Word → Word) (s : State), ¬ (5 ≤ s.inAvail.toNat ∧ Noncanonical o s.windowOperand) →
    decodeCommand o .error post s = decodeCommand o .ignore post s) ∧
  ∀ (o : Byte0Order) (v : Word) (old : Bytes5), (enc o v).length = 5 →
    ¬ Noncanonical o (overwritePrefix (enc o v) old)

/-- R90, R95, R111: too few bytes raise DecodeShort and leave every register but STATUS. With no byte available
no window byte need be written, and else byte 0 alone (R116 c). -/
def Obligations.DecoderRaisesShort : Prop :=
  ∀ (i : Instr) (s : State), i = .decu ∨ i = .decs →
    (s.inAvail.toNat = 0 ∨
      (min s.inAvail.toNat 5 < lengthOfByte0 s.inB.b0.toNat ∧ s.inputWritten (.inB 0) = true)) →
    ∃ t, exec i s = .next t ∧ t.status = statusAfter s 0x48#8 ∧ RegistersKeptButStatus s t ∧ CommandFrame s t

/-- R94, R95: the decoder reads no byte at or beyond the class's length, nor at or beyond the bytes available, it
changes no window byte, and OUT_CONSUMED is the length byte 0 tells. -/
def Obligations.DecoderReadsOnlyTheEncoding : Prop :=
  ∀ (i : Instr) (s : State) (b : Bytes5), i = .decu ∨ i = .decs → commandReady i s = true →
    (∀ k : Fin 5, k.val < lengthOfByte0 s.inB.b0.toNat → k.val < s.inAvail.toNat →
      byteAt b k = byteAt s.inB k) →
    ∃ t, exec i s = .next t ∧ exec i { s with inB := b } = .next { t with inB := b } ∧ t.inB = s.inB ∧
      (t.flag .cv = true → t.outConsumed.toNat = lengthOfByte0 s.inB.b0.toNat)

/-- R23: IN_AVAIL values 5, 6 and 7 mean the same to every command, and no command reads a window byte at
position min(IN_AVAIL, 5) or above. -/
def Obligations.AvailabilitySaturatesAtFive : Prop :=
  (∀ (i : Instr) (s : State) (n : Count), 5 ≤ s.inAvail.toNat → 5 ≤ n.toNat →
    ∃ t, exec i s = .next t ∧ exec i { s with inAvail := n } = .next { t with inAvail := n }) ∧
  ∀ (i : Instr) (s : State) (b : Bytes5),
    (∀ k : Fin 5, k.val < min s.inAvail.toNat 5 → byteAt b k = byteAt s.inB k) →
    ∃ t, exec i s = .next t ∧ exec i { s with inB := b } = .next { t with inB := b }

/-- R93: for every value and every class at least as long as its minimal one there is a window of that class
which DECU decodes to the value. -/
def Obligations.OverlongEncodingsAccepted : Prop :=
  ∀ (v : Word) (c : LenClass), (lenOf v).bytes ≤ c.bytes →
    ∃ b : Bytes5, classOf b.b0 = c ∧ ∀ s : State, s.inB = b → c.bytes ≤ s.inAvail.toNat →
      (∀ k : Fin 5, k.val < c.bytes → s.inputWritten (.inB k) = true) →
      ∃ t, exec .decu s = .next t ∧ t.outValue = v ∧ t.outConsumed.toNat = c.bytes ∧
        t.status = statusAfter s 0x06#8

/-- R91: DECS ends as DECU does, with the value of a success sent through unzigzag. -/
def Obligations.SignedDecodeMirrorsUnsigned : Prop :=
  ∀ s : State, ∃ t, exec .decu s = .next t ∧
    exec .decs s = .next (if t.flag .vv = true then { t with outValue := unzz t.outValue } else t)

/-- R90, R112: what a decode leaves unchanged, and that a failed one writes no output. -/
def Obligations.DecoderFrame : Prop :=
  ∀ (i : Instr) (s : State), i = .decu ∨ i = .decs →
    ∃ t, exec i s = .next t ∧ CommandFrame s t ∧ ByteOutputsKept s t ∧
      (t.flag .vv = false → ValueOutputsKept s t)

/-- R114: the order of the checks, by CMD value, with the policy this machine has for the last one. An illegal CMD
value reads no operand, so it records no model fault; a decode is taken with the bytes it reads written. -/
def Obligations.ErrorPriority : Prop :=
  ∀ (s : State) (v : Word) (rest : List HostEvent), s.pending = .write 0 v :: rest →
    ∃ t, step s = .next t ∧
      (v.toNat % 256 = 0 ∨ 7 ≤ v.toNat % 256 → t.status = statusAfter s 0x60#8 ∧ t.modelFault = s.modelFault) ∧
      (v.toNat % 256 = 3 ∨ v.toNat % 256 = 4 → commandReady .decu s = true →
        t.status = statusAfter s
          (if s.inAvail.toNat = 0 then 0x48#8
           else if min s.inAvail.toNat 5 < lengthOfByte0 s.inB.b0.toNat then 0x48#8
           else if 0xF0 < s.inB.b0.toNat ∧ Config.noncanon5Policy = .error then 0x50#8
           else 0x06#8)) ∧
      (v.toNat % 256 = 1 ∨ v.toNat % 256 = 2 ∨ v.toNat % 256 = 5 ∨ v.toNat % 256 = 6 →
        t.flag .eshort = false ∧ t.flag .enoncanon = false ∧ t.flag .eill = false)

/-- R112: after a CMD write that ends in an error, STATUS[5:0] is the error's bit, STICKY is 1, CMD holds the
value written, and every other register is as it was. -/
def Obligations.ErrorLeavesRegisters : Prop :=
  ∀ (s t : State) (v : Word) (rest : List HostEvent), s.pending = .write 0 v :: rest → step s = .next t →
    (t.flag .eshort || t.flag .enoncanon || t.flag .eill) = true →
    (t.status &&& 0x3F#8 = 0x08#8 ∨ t.status &&& 0x3F#8 = 0x10#8 ∨ t.status &&& 0x3F#8 = 0x20#8) ∧
      t.flag .sticky = true ∧ RegistersKeptButStatus { s with cmd := v.setWidth 8 } t

/-- R96: for either byte order and either policy, a value the host has written, encoded, and its bytes, written to
the window and decoded, come back, unsigned and signed, whatever else the two states hold. -/
def Obligations.VarintRoundTrip : Prop :=
  ∀ (o : Byte0Order) (pol : Noncanon5Policy) (s u : State), s.inputWritten .inValue = true →
    (u.inAvail = (encodeCommand o id s).outLen →
      (∀ k : Fin 5, k.val < (encodeCommand o id s).outLen.toNat →
        byteAt u.inB k = byteAt (encodeCommand o id s).outB k ∧ u.inputWritten (.inB k) = true) →
      (decodeCommand o pol id u).outValue = s.inValue ∧
      (decodeCommand o pol id u).outConsumed = (encodeCommand o id s).outLen ∧
      (decodeCommand o pol id u).status = statusAfter u 0x06#8) ∧
    (u.inAvail = (encodeCommand o zz s).outLen →
      (∀ k : Fin 5, k.val < (encodeCommand o zz s).outLen.toNat →
        byteAt u.inB k = byteAt (encodeCommand o zz s).outB k ∧ u.inputWritten (.inB k) = true) →
      (decodeCommand o pol unzz u).outValue = s.inValue ∧
      (decodeCommand o pol unzz u).outConsumed = (encodeCommand o zz s).outLen ∧
      (decodeCommand o pol unzz u).status = statusAfter u 0x06#8)

/-- R96 on this machine: ENCU then DECU, and ENCS then DECS, through `exec`. -/
def Obligations.CommandRoundTrip : Prop :=
  ∀ (e d : Instr) (s t u : State), (e = .encu ∧ d = .decu) ∨ (e = .encs ∧ d = .decs) →
    s.inputWritten .inValue = true → exec e s = .next t → u.inAvail = t.outLen →
    (∀ k : Fin 5, k.val < t.outLen.toNat → byteAt u.inB k = byteAt t.outB k ∧ u.inputWritten (.inB k) = true) →
    ∃ r, exec d u = .next r ∧ r.outValue = s.inValue ∧ r.outConsumed = t.outLen ∧
      r.status = statusAfter u 0x06#8

/-- R102: ZZ computes the 32-bit formula, which is the closed form over the integers. -/
def Obligations.ZzComputesZigzag : Prop :=
  ∀ s : State, s.inputWritten .inValue = true → ∃ t, exec .zz s = .next t ∧
    t.outValue = (s.inValue <<< 1) ^^^ s.inValue.sshiftRight 31 ∧
    (t.outValue.toNat : Int) = (if 0 ≤ s.inValue.toInt then 2 * s.inValue.toInt else -2 * s.inValue.toInt - 1) ∧
    t.status = statusAfter s 0x02#8

/-- R103: UNZZ computes the 32-bit formula with a logical shift, which is the closed form over the integers. -/
def Obligations.UnzzComputesInverseZigzag : Prop :=
  ∀ s : State, s.inputWritten .inValue = true → ∃ t, exec .unzz s = .next t ∧
    t.outValue = (s.inValue >>> 1) ^^^ (-(s.inValue &&& 1#32)) ∧
    t.outValue.toInt =
      (if s.inValue.toNat % 2 = 0 then (s.inValue.toNat : Int) / 2 else -(((s.inValue.toNat : Int) + 1) / 2)) ∧
    t.status = statusAfter s 0x02#8

/-- R104: ZZ and UNZZ undo each other, ZZ orders by magnitude and puts −k before k, and ENCS takes one byte exactly
from −64 to 63, for values the host has written. -/
def Obligations.ZigzagLaws : Prop :=
  (∀ s t : State, s.inputWritten .inValue = true → exec .zz s = .next t →
    ∃ u, exec .unzz { t with inValue := t.outValue } = .next u ∧ u.outValue = s.inValue) ∧
  (∀ s t : State, s.inputWritten .inValue = true → exec .unzz s = .next t →
    ∃ u, exec .zz { t with inValue := t.outValue } = .next u ∧ u.outValue = s.inValue) ∧
  (∀ s s' t t' : State, s.inputWritten .inValue = true → s'.inputWritten .inValue = true →
    exec .zz s = .next t → exec .zz s' = .next t' →
    (s.inValue.toInt.natAbs < s'.inValue.toInt.natAbs ∨
      (s.inValue.toInt < 0 ∧ s'.inValue.toInt = -s.inValue.toInt)) →
    t.outValue.toNat < t'.outValue.toNat) ∧
  ∀ s : State, s.inputWritten .inValue = true → ∃ t u, exec .encs s = .next t ∧ exec .zz s = .next u ∧
    (u.outValue.toNat ≤ 0x7F ↔ -64 ≤ s.inValue.toInt ∧ s.inValue.toInt ≤ 63) ∧
    (t.outLen.toNat = 1 ↔ -64 ≤ s.inValue.toInt ∧ s.inValue.toInt ≤ 63)

/-- R100, R101: what ZZ and UNZZ leave unchanged. -/
def Obligations.ZigzagFrame : Prop :=
  ∀ (i : Instr) (s : State), i = .zz ∨ i = .unzz →
    ∃ t, exec i s = .next t ∧ CommandFrame s t ∧ ByteOutputsKept s t ∧ t.outConsumed = s.outConsumed

/-- R80, R81, R27: what ENCU and ENCS leave unchanged. -/
def Obligations.EncoderFrame : Prop :=
  ∀ (i : Instr) (s : State), i = .encu ∨ i = .encs →
    ∃ t, exec i s = .next t ∧ CommandFrame s t ∧ ValueOutputsKept s t ∧
      ∀ k : Fin 5, t.outLen.toNat ≤ k.val → byteAt t.outB k = byteAt s.outB k

/-- R66: ENCU's and ENCS's layout under BYTE0_ORDER = LOW, by division, for every value the host has written. -/
def Obligations.LowLayoutBytes : Prop :=
  ∀ (pre : Word → Word) (s : State), s.inputWritten .inValue = true →
    OutputIs (lowBytes (pre s.inValue).toNat) (encodeCommand .low pre s)

/-- R67: the value of a written window under BYTE0_ORDER = LOW, by multiplication, where the policy raises nothing. -/
def Obligations.LowLayoutValue : Prop :=
  ∀ s : State, lengthOfByte0 s.inB.b0.toNat ≤ min s.inAvail.toNat 5 →
    (∀ k : Fin 5, k.val < lengthOfByte0 s.inB.b0.toNat → s.inputWritten (.inB k) = true) →
    (decodeCommand .low .ignore id s).outValue.toNat = lowValue s.inB ∧
    (decodeCommand .low .ignore id s).outConsumed.toNat = lengthOfByte0 s.inB.b0.toNat ∧
    (decodeCommand .low .ignore id s).status = statusAfter s 0x06#8

/-- R21, R126: a host write of IN_VALUE stores all 32 bits and changes nothing else. -/
def Obligations.WriteInValueStores : Prop :=
  ∀ (s : State) (v : Word) (rest : List HostEvent), s.pending = .write 2 v :: rest →
    ∃ t, step s = .next t ∧ t = { s with inValue := v, written := t.written, pending := rest } ∧
      t.inputWritten .inValue = true ∧ ∀ k : Fin 5, t.inputWritten (.inB k) = s.inputWritten (.inB k)

/-- R22: writes to read-only registers do nothing, narrow registers keep the low bits, and a register number of
17 or more is refused. -/
def Obligations.HostAccessOutsideTheTable : Prop :=
  (∀ (s : State) (n : Nat) (v : Word) (rest : List HostEvent), s.pending = .write n v :: rest →
    n = 1 ∨ (9 ≤ n ∧ n ≤ 16) → step s = .next { s with pending := rest }) ∧
  (∀ (s : State) (k : Fin 5) (v : Word) (rest : List HostEvent), s.pending = .write (3 + k.val) v :: rest →
    ∃ t, step s = .next t ∧ t = { s with inB := t.inB, written := t.written, pending := rest } ∧
      (byteAt t.inB k).toNat = v.toNat % 256 ∧ (∀ j : Fin 5, j ≠ k → byteAt t.inB j = byteAt s.inB j) ∧
      t.inputWritten (.inB k) = true ∧ t.inputWritten .inValue = s.inputWritten .inValue ∧
      ∀ j : Fin 5, j ≠ k → t.inputWritten (.inB j) = s.inputWritten (.inB j)) ∧
  (∀ (s : State) (v : Word) (rest : List HostEvent), s.pending = .write 8 v :: rest →
    ∃ t, step s = .next t ∧ t = { s with inAvail := t.inAvail, pending := rest } ∧
      t.inAvail.toNat = v.toNat % 8) ∧
  (∀ (s : State) (v : Word) (rest : List HostEvent), s.pending = .write 0 v :: rest →
    ∃ t, step s = .next t ∧ t.cmd.toNat = v.toNat % 256 ∧
      step { s with pending := .write 0 (BitVec.ofNat 32 (v.toNat % 256)) :: rest } = .next t) ∧
  ∀ (s : State) (n : Nat) (v : Word) (rest : List HostEvent),
    s.pending = .write n v :: rest ∨ s.pending = .read n :: rest → 17 ≤ n →
    step s = .refused (.noSuchRegister n)

/-- R21, R24, R44: what a host read of CMD, STATUS, IN_AVAIL and the inputs written since reset gives. -/
def Obligations.HostReadsOfControlAndInputs : Prop :=
  ∀ (s : State) (n : Nat) (rest : List HostEvent), s.pending = .read n :: rest → n ≤ 8 →
    (n = 2 → s.inputWritten .inValue = true) → (∀ k : Fin 5, n = 3 + k.val → s.inputWritten (.inB k) = true) →
    ∃ x, step s = .next { s with pending := rest, reads := s.reads ++ [x] } ∧
      (n = 0 → x.value.toNat = s.cmd.toNat) ∧ (n = 1 → x.value.toNat = s.status.toNat % 128) ∧
      (n = 2 → x.value = s.inValue) ∧
      (∀ k : Fin 5, n = 3 + k.val → x.value.toNat = (byteAt s.inB k).toNat) ∧
      (n = 8 → x.value.toNat = s.inAvail.toNat)

/-- R21, R26, R27: what a host read of a valid output gives. -/
def Obligations.HostReadsOfValidOutputs : Prop :=
  ∀ (s : State) (n : Nat) (rest : List HostEvent), s.pending = .read n :: rest →
    (∀ k : Fin 5, n = 9 + k.val → s.flag .bv = true → k.val < s.outLen.toNat →
      step s = .next { s with pending := rest, reads := s.reads ++ [⟨.outB k, (byteAt s.outB k).setWidth 32⟩] }) ∧
    (n = 14 → s.flag .bv = true →
      step s = .next { s with pending := rest, reads := s.reads ++ [⟨.outLen, s.outLen.setWidth 32⟩] }) ∧
    (n = 15 → s.flag .vv = true →
      step s = .next { s with pending := rest, reads := s.reads ++ [⟨.outValue, s.outValue⟩] }) ∧
    (n = 16 → s.flag .cv = true →
      step s = .next { s with pending := rest, reads := s.reads ++ [⟨.outConsumed, s.outConsumed.setWidth 32⟩] })

/-- R26: a host read of an output whose valid bit is 0 stops with a fault. -/
def Obligations.InvalidOutputReadsFault : Prop :=
  ∀ (s : State) (n : Nat) (rest : List HostEvent), s.pending = .read n :: rest →
    (∀ k : Fin 5, n = 9 + k.val → s.flag .bv = false → step s = .fault (.invalidOutput (.outB k))) ∧
    (n = 14 → s.flag .bv = false → step s = .fault (.invalidOutput .outLen)) ∧
    (n = 15 → s.flag .vv = false → step s = .fault (.invalidOutput .outValue)) ∧
    (n = 16 → s.flag .cv = false → step s = .fault (.invalidOutput .outConsumed))

/-- R34, R116 c: a host read of an input register not written since reset records that model fault. What the host
gets is a free value, and nothing is said of it; that the read goes on is the model's choice
(notes/assumptions/6.md), and that an earlier record stays too (notes/assumptions/15.md). -/
def Obligations.UnwrittenInputReadsRecordModelFault : Prop :=
  ∀ (s : State) (n : Nat) (rest : List HostEvent), s.pending = .read n :: rest →
    (n = 2 → s.inputWritten .inValue = false → ∃ v, step s = .next { s with
      pending := rest, reads := s.reads ++ [⟨.inValue, v⟩],
      modelFault := s.modelFault.or (some (.unwrittenInput .inValue)) }) ∧
    ∀ k : Fin 5, n = 3 + k.val → s.inputWritten (.inB k) = false → ∃ v : Byte, step s = .next { s with
      pending := rest, reads := s.reads ++ [⟨.inB k, v.setWidth 32⟩],
      modelFault := s.modelFault.or (some (.unwrittenInput (.inB k))) }

/-- R48: only a CMD write has a side effect. A read changes no register, a second read of the same register gives
the same value, and a write of another register changes none of CMD, STATUS and the outputs. -/
def Obligations.OnlyCommandWritesHaveSideEffects : Prop :=
  (∀ (s t : State) (n : Nat) (rest : List HostEvent), s.pending = .read n :: rest → step s = .next t →
    t.status = s.status ∧ RegistersKeptButStatus s t) ∧
  (∀ (s t : State) (n : Nat) (rest : List HostEvent), s.pending = .read n :: .read n :: rest →
    step s = .next t → ∃ u x, step t = .next u ∧ t.reads = s.reads ++ [x] ∧ u.reads = s.reads ++ [x, x]) ∧
  ∀ (s t : State) (n : Nat) (v : Word) (rest : List HostEvent), s.pending = .write n v :: rest → n ≠ 0 →
    step s = .next t →
    t.cmd = s.cmd ∧ t.status = s.status ∧ ByteOutputsKept s t ∧ ValueOutputsKept s t

/-- R49: events take effect in the order the host issues them, one a step. -/
def Obligations.EventsTakenInOrder : Prop :=
  ∀ (s t : State) (e : HostEvent) (rest : List HostEvent), s.pending = e :: rest → step s = .next t →
    t.pending = rest

/-- R22, R54, R126: an event of the one host that names an existing register is never refused. -/
def Obligations.WellFormedEventsNotRefused : Prop :=
  ∀ (s : State) (e : HostEvent) (rest : List HostEvent), s.pending = e :: rest → hostEventWf e = true →
    ∀ r, step s ≠ .refused r

/-- R54: an access of a second host is refused. -/
def Obligations.SecondHostRefused : Prop :=
  ∀ (s : State) (rest : List HostEvent), s.pending = .secondHost :: rest →
    step s = .refused .sharedBySecondHost

/-- R116 c, R132: a command records a model fault exactly when it reads an input the host has not written since
reset, and the record names such an input. That the command goes on, as R131 says the hardware does, is the model's
choice (notes/assumptions/6.md), and that an earlier record stays too (notes/assumptions/15.md). -/
def Obligations.CommandRecordsModelFaultExactlyWhenInputUnwritten : Prop :=
  ∀ (i : Instr) (s : State),
    (commandReady i s = true → ∃ t, exec i s = .next t ∧ t.modelFault = s.modelFault) ∧
    (commandReady i s = false →
      ∃ t r, exec i s = .next t ∧ t.modelFault = s.modelFault.or (some (.unwrittenInput r)) ∧
        s.inputWritten r = false ∧ (i = .encu ∨ i = .encs ∨ i = .zz ∨ i = .unzz → r = .inValue) ∧
        (i = .decu ∨ i = .decs → ∃ k : Fin 5, r = .inB k ∧ k.val < s.avail))

/-- R131, R116 c: a command does with an unwritten input all that it does with a written one that holds the free
value: the same STATUS and outputs. The free value is the only thing left open. That there is such a value, one for
each register and reset, is the model's choice (notes/assumptions/6.md). -/
def Obligations.UnwrittenInputsActAsFreeValues : Prop :=
  ∀ (i : Instr) (s : State), ∃ t u, exec i s = .next t ∧ exec i s.withOperandsWritten = .next u ∧
    u.status = t.status ∧ ByteOutputsKept t u ∧ ValueOutputsKept t u ∧ u.modelFault = s.modelFault

/-- R116: a recorded model fault is never cleared, by no event, reset included, and a step of any instance keeps the
record of each. -/
def Obligations.ModelFaultNeverCleared : Prop :=
  (∀ (s t : State) (m : ModelFault), step s = .next t → s.modelFault = some m → t.modelFault = some m) ∧
  ∀ (n : Nat) (j k : Fin n) (blocks after : Vector State n) (m : ModelFault), blocks[j].modelFault = some m →
    stepInstance k blocks = .next after → after[j].modelFault = some m

/-- R116, R124, R131: what a state holds where the spec gives no value (inputs not written since reset, outputs marked
invalid, OUT_B beyond OUT_LEN) never reaches anything else, in any step: not the values the host reads, nor any
content the spec does give. So no result rests on the values the model chose for it. Both states read the same free
values in unwritten inputs, because they have equal `resets`: the model's choice (notes/assumptions/6.md, 21.md). -/
def Obligations.UndeterminedContentNeverMatters : Prop :=
  ∀ s t : State, SameDetermined s t →
    (∀ s', step s = .next s' → ∃ t', step t = .next t' ∧ SameDetermined s' t') ∧
    (∀ f, step s = .fault f → step t = .fault f) ∧
    ∀ r, step s = .refused r → step t = .refused r

/-- R24, R25, R83, R94, R112: STATUS describes the most recent command, in every step. -/
def Obligations.StepKeepsStatusInv : Prop :=
  ∀ s t : State, StatusInv s → step s = .next t → StatusInv t

/-- R34: the invariant holds after reset. -/
def Obligations.ResetHasStatusInv : Prop := StatusInv State.reset

/-- R12, R122: a step of one instance is a step of that block and leaves every other instance. That the others go on
when a read of one stops it, which is recorded in it, is the model's choice (notes/assumptions/20.md). -/
def Obligations.InstancesIndependent : Prop :=
  ∀ (n : Nat) (k : Fin n) (blocks : Vector State n),
    (∀ after, stepInstance k blocks = .next after → ∀ j : Fin n, j ≠ k → after[j] = blocks[j]) ∧
    (∀ s, step blocks[k] = .next s → ∃ after, stepInstance k blocks = .next after ∧ after[k] = s) ∧
    ∀ f, step blocks[k] = .fault f →
      ∃ after, stepInstance k blocks = .next after ∧ after[k] = { blocks[k] with
        modelFault := blocks[k].modelFault.or (some (.stopped f)) }

/-- R73: the window pseudo-instructions stand for the byte writes in order, IN_AVAIL and the command, and a list
of 0 or more than 5 bytes is none. -/
def Obligations.WindowLinesExpand : Prop :=
  ∀ bs : List Byte,
    (1 ≤ bs.length ∧ bs.length ≤ 5 →
      ∃ es, expandLine (.decuBytes bs) = some (es ++ [.write 8 (BitVec.ofNat 32 bs.length), .write 0 0x03#32]) ∧
        expandLine (.decsBytes bs) = some (es ++ [.write 8 (BitVec.ofNat 32 bs.length), .write 0 0x04#32]) ∧
        es.length = bs.length ∧
        ∀ (k : Nat) (b : Byte), bs[k]? = some b → es[k]? = some (.write (3 + k) (b.setWidth 32))) ∧
    (bs.length = 0 ∨ 5 < bs.length →
      expandLine (.decuBytes bs) = none ∧ expandLine (.decsBytes bs) = none)
end

