-- ==== Sys2Proof/Laws/State.lean ====
section
/-! SUPPORT. What each named update of the state does to each field: one lemma per field per update. -/

namespace Sys2Proof.Machine

@[simp] theorem State.withStatus_cmd (s : State) (b : Byte) :
    (s.withStatus b).cmd = s.cmd := rfl
@[simp] theorem State.withStatus_status (s : State) (b : Byte) :
    (s.withStatus b).status = b := rfl
@[simp] theorem State.withStatus_inValue (s : State) (b : Byte) :
    (s.withStatus b).inValue = s.inValue := rfl
@[simp] theorem State.withStatus_inB (s : State) (b : Byte) :
    (s.withStatus b).inB = s.inB := rfl
@[simp] theorem State.withStatus_inAvail (s : State) (b : Byte) :
    (s.withStatus b).inAvail = s.inAvail := rfl
@[simp] theorem State.withStatus_outB (s : State) (b : Byte) :
    (s.withStatus b).outB = s.outB := rfl
@[simp] theorem State.withStatus_outLen (s : State) (b : Byte) :
    (s.withStatus b).outLen = s.outLen := rfl
@[simp] theorem State.withStatus_outValue (s : State) (b : Byte) :
    (s.withStatus b).outValue = s.outValue := rfl
@[simp] theorem State.withStatus_outConsumed (s : State) (b : Byte) :
    (s.withStatus b).outConsumed = s.outConsumed := rfl
@[simp] theorem State.withStatus_written (s : State) (b : Byte) :
    (s.withStatus b).written = s.written := rfl
@[simp] theorem State.withStatus_modelFault (s : State) (b : Byte) :
    (s.withStatus b).modelFault = s.modelFault := rfl
@[simp] theorem State.withStatus_resets (s : State) (b : Byte) :
    (s.withStatus b).resets = s.resets := rfl
@[simp] theorem State.withStatus_pending (s : State) (b : Byte) :
    (s.withStatus b).pending = s.pending := rfl
@[simp] theorem State.withStatus_reads (s : State) (b : Byte) :
    (s.withStatus b).reads = s.reads := rfl

@[simp] theorem State.setFlag_cmd (s : State) (f : StatusFlag) :
    (s.setFlag f).cmd = s.cmd := rfl
@[simp] theorem State.setFlag_status (s : State) (f : StatusFlag) :
    (s.setFlag f).status = s.status ||| (1#8 <<< f.bit) := rfl
@[simp] theorem State.setFlag_inValue (s : State) (f : StatusFlag) :
    (s.setFlag f).inValue = s.inValue := rfl
@[simp] theorem State.setFlag_inB (s : State) (f : StatusFlag) :
    (s.setFlag f).inB = s.inB := rfl
@[simp] theorem State.setFlag_inAvail (s : State) (f : StatusFlag) :
    (s.setFlag f).inAvail = s.inAvail := rfl
@[simp] theorem State.setFlag_outB (s : State) (f : StatusFlag) :
    (s.setFlag f).outB = s.outB := rfl
@[simp] theorem State.setFlag_outLen (s : State) (f : StatusFlag) :
    (s.setFlag f).outLen = s.outLen := rfl
@[simp] theorem State.setFlag_outValue (s : State) (f : StatusFlag) :
    (s.setFlag f).outValue = s.outValue := rfl
@[simp] theorem State.setFlag_outConsumed (s : State) (f : StatusFlag) :
    (s.setFlag f).outConsumed = s.outConsumed := rfl
@[simp] theorem State.setFlag_written (s : State) (f : StatusFlag) :
    (s.setFlag f).written = s.written := rfl
@[simp] theorem State.setFlag_modelFault (s : State) (f : StatusFlag) :
    (s.setFlag f).modelFault = s.modelFault := rfl
@[simp] theorem State.setFlag_resets (s : State) (f : StatusFlag) :
    (s.setFlag f).resets = s.resets := rfl
@[simp] theorem State.setFlag_pending (s : State) (f : StatusFlag) :
    (s.setFlag f).pending = s.pending := rfl
@[simp] theorem State.setFlag_reads (s : State) (f : StatusFlag) :
    (s.setFlag f).reads = s.reads := rfl

@[simp] theorem State.clearCommandStatus_cmd (s : State) :
    (s.clearCommandStatus).cmd = s.cmd := rfl
@[simp] theorem State.clearCommandStatus_status (s : State) :
    (s.clearCommandStatus).status = s.status &&& 0xC0#8 := rfl
@[simp] theorem State.clearCommandStatus_inValue (s : State) :
    (s.clearCommandStatus).inValue = s.inValue := rfl
@[simp] theorem State.clearCommandStatus_inB (s : State) :
    (s.clearCommandStatus).inB = s.inB := rfl
@[simp] theorem State.clearCommandStatus_inAvail (s : State) :
    (s.clearCommandStatus).inAvail = s.inAvail := rfl
@[simp] theorem State.clearCommandStatus_outB (s : State) :
    (s.clearCommandStatus).outB = s.outB := rfl
@[simp] theorem State.clearCommandStatus_outLen (s : State) :
    (s.clearCommandStatus).outLen = s.outLen := rfl
@[simp] theorem State.clearCommandStatus_outValue (s : State) :
    (s.clearCommandStatus).outValue = s.outValue := rfl
@[simp] theorem State.clearCommandStatus_outConsumed (s : State) :
    (s.clearCommandStatus).outConsumed = s.outConsumed := rfl
@[simp] theorem State.clearCommandStatus_written (s : State) :
    (s.clearCommandStatus).written = s.written := rfl
@[simp] theorem State.clearCommandStatus_modelFault (s : State) :
    (s.clearCommandStatus).modelFault = s.modelFault := rfl
@[simp] theorem State.clearCommandStatus_resets (s : State) :
    (s.clearCommandStatus).resets = s.resets := rfl
@[simp] theorem State.clearCommandStatus_pending (s : State) :
    (s.clearCommandStatus).pending = s.pending := rfl
@[simp] theorem State.clearCommandStatus_reads (s : State) :
    (s.clearCommandStatus).reads = s.reads := rfl

@[simp] theorem State.raise_cmd (s : State) (e : ErrorCause) :
    (s.raise e).cmd = s.cmd := rfl
@[simp] theorem State.raise_status (s : State) (e : ErrorCause) :
    (s.raise e).status = s.status ||| (1#8 <<< e.flag.bit) ||| (1#8 <<< 6) := rfl
@[simp] theorem State.raise_inValue (s : State) (e : ErrorCause) :
    (s.raise e).inValue = s.inValue := rfl
@[simp] theorem State.raise_inB (s : State) (e : ErrorCause) :
    (s.raise e).inB = s.inB := rfl
@[simp] theorem State.raise_inAvail (s : State) (e : ErrorCause) :
    (s.raise e).inAvail = s.inAvail := rfl
@[simp] theorem State.raise_outB (s : State) (e : ErrorCause) :
    (s.raise e).outB = s.outB := rfl
@[simp] theorem State.raise_outLen (s : State) (e : ErrorCause) :
    (s.raise e).outLen = s.outLen := rfl
@[simp] theorem State.raise_outValue (s : State) (e : ErrorCause) :
    (s.raise e).outValue = s.outValue := rfl
@[simp] theorem State.raise_outConsumed (s : State) (e : ErrorCause) :
    (s.raise e).outConsumed = s.outConsumed := rfl
@[simp] theorem State.raise_written (s : State) (e : ErrorCause) :
    (s.raise e).written = s.written := rfl
@[simp] theorem State.raise_modelFault (s : State) (e : ErrorCause) :
    (s.raise e).modelFault = s.modelFault := rfl
@[simp] theorem State.raise_resets (s : State) (e : ErrorCause) :
    (s.raise e).resets = s.resets := rfl
@[simp] theorem State.raise_pending (s : State) (e : ErrorCause) :
    (s.raise e).pending = s.pending := rfl
@[simp] theorem State.raise_reads (s : State) (e : ErrorCause) :
    (s.raise e).reads = s.reads := rfl

@[simp] theorem State.storeCmd_cmd (s : State) (c : Byte) :
    (s.storeCmd c).cmd = c := rfl
@[simp] theorem State.storeCmd_status (s : State) (c : Byte) :
    (s.storeCmd c).status = s.status := rfl
@[simp] theorem State.storeCmd_inValue (s : State) (c : Byte) :
    (s.storeCmd c).inValue = s.inValue := rfl
@[simp] theorem State.storeCmd_inB (s : State) (c : Byte) :
    (s.storeCmd c).inB = s.inB := rfl
@[simp] theorem State.storeCmd_inAvail (s : State) (c : Byte) :
    (s.storeCmd c).inAvail = s.inAvail := rfl
@[simp] theorem State.storeCmd_outB (s : State) (c : Byte) :
    (s.storeCmd c).outB = s.outB := rfl
@[simp] theorem State.storeCmd_outLen (s : State) (c : Byte) :
    (s.storeCmd c).outLen = s.outLen := rfl
@[simp] theorem State.storeCmd_outValue (s : State) (c : Byte) :
    (s.storeCmd c).outValue = s.outValue := rfl
@[simp] theorem State.storeCmd_outConsumed (s : State) (c : Byte) :
    (s.storeCmd c).outConsumed = s.outConsumed := rfl
@[simp] theorem State.storeCmd_written (s : State) (c : Byte) :
    (s.storeCmd c).written = s.written := rfl
@[simp] theorem State.storeCmd_modelFault (s : State) (c : Byte) :
    (s.storeCmd c).modelFault = s.modelFault := rfl
@[simp] theorem State.storeCmd_resets (s : State) (c : Byte) :
    (s.storeCmd c).resets = s.resets := rfl
@[simp] theorem State.storeCmd_pending (s : State) (c : Byte) :
    (s.storeCmd c).pending = s.pending := rfl
@[simp] theorem State.storeCmd_reads (s : State) (c : Byte) :
    (s.storeCmd c).reads = s.reads := rfl

@[simp] theorem State.writeInValue_cmd (s : State) (v : Word) :
    (s.writeInValue v).cmd = s.cmd := rfl
@[simp] theorem State.writeInValue_status (s : State) (v : Word) :
    (s.writeInValue v).status = s.status := rfl
@[simp] theorem State.writeInValue_inValue (s : State) (v : Word) :
    (s.writeInValue v).inValue = v := rfl
@[simp] theorem State.writeInValue_inB (s : State) (v : Word) :
    (s.writeInValue v).inB = s.inB := rfl
@[simp] theorem State.writeInValue_inAvail (s : State) (v : Word) :
    (s.writeInValue v).inAvail = s.inAvail := rfl
@[simp] theorem State.writeInValue_outB (s : State) (v : Word) :
    (s.writeInValue v).outB = s.outB := rfl
@[simp] theorem State.writeInValue_outLen (s : State) (v : Word) :
    (s.writeInValue v).outLen = s.outLen := rfl
@[simp] theorem State.writeInValue_outValue (s : State) (v : Word) :
    (s.writeInValue v).outValue = s.outValue := rfl
@[simp] theorem State.writeInValue_outConsumed (s : State) (v : Word) :
    (s.writeInValue v).outConsumed = s.outConsumed := rfl
@[simp] theorem State.writeInValue_written (s : State) (v : Word) :
    (s.writeInValue v).written = { s.written with inValue := true } := rfl
@[simp] theorem State.writeInValue_modelFault (s : State) (v : Word) :
    (s.writeInValue v).modelFault = s.modelFault := rfl
@[simp] theorem State.writeInValue_resets (s : State) (v : Word) :
    (s.writeInValue v).resets = s.resets := rfl
@[simp] theorem State.writeInValue_pending (s : State) (v : Word) :
    (s.writeInValue v).pending = s.pending := rfl
@[simp] theorem State.writeInValue_reads (s : State) (v : Word) :
    (s.writeInValue v).reads = s.reads := rfl

@[simp] theorem State.writeInB_cmd (s : State) (k : Fin 5) (b : Byte) :
    (s.writeInB k b).cmd = s.cmd := rfl
@[simp] theorem State.writeInB_status (s : State) (k : Fin 5) (b : Byte) :
    (s.writeInB k b).status = s.status := rfl
@[simp] theorem State.writeInB_inValue (s : State) (k : Fin 5) (b : Byte) :
    (s.writeInB k b).inValue = s.inValue := rfl
@[simp] theorem State.writeInB_inB (s : State) (k : Fin 5) (b : Byte) :
    (s.writeInB k b).inB = setByteAt s.inB k b := rfl
@[simp] theorem State.writeInB_inAvail (s : State) (k : Fin 5) (b : Byte) :
    (s.writeInB k b).inAvail = s.inAvail := rfl
@[simp] theorem State.writeInB_outB (s : State) (k : Fin 5) (b : Byte) :
    (s.writeInB k b).outB = s.outB := rfl
@[simp] theorem State.writeInB_outLen (s : State) (k : Fin 5) (b : Byte) :
    (s.writeInB k b).outLen = s.outLen := rfl
@[simp] theorem State.writeInB_outValue (s : State) (k : Fin 5) (b : Byte) :
    (s.writeInB k b).outValue = s.outValue := rfl
@[simp] theorem State.writeInB_outConsumed (s : State) (k : Fin 5) (b : Byte) :
    (s.writeInB k b).outConsumed = s.outConsumed := rfl
@[simp] theorem State.writeInB_written (s : State) (k : Fin 5) (b : Byte) :
    (s.writeInB k b).written = markByteWritten s.written k := rfl
@[simp] theorem State.writeInB_modelFault (s : State) (k : Fin 5) (b : Byte) :
    (s.writeInB k b).modelFault = s.modelFault := rfl
@[simp] theorem State.writeInB_resets (s : State) (k : Fin 5) (b : Byte) :
    (s.writeInB k b).resets = s.resets := rfl
@[simp] theorem State.writeInB_pending (s : State) (k : Fin 5) (b : Byte) :
    (s.writeInB k b).pending = s.pending := rfl
@[simp] theorem State.writeInB_reads (s : State) (k : Fin 5) (b : Byte) :
    (s.writeInB k b).reads = s.reads := rfl

@[simp] theorem State.writeInAvail_cmd (s : State) (n : Count) :
    (s.writeInAvail n).cmd = s.cmd := rfl
@[simp] theorem State.writeInAvail_status (s : State) (n : Count) :
    (s.writeInAvail n).status = s.status := rfl
@[simp] theorem State.writeInAvail_inValue (s : State) (n : Count) :
    (s.writeInAvail n).inValue = s.inValue := rfl
@[simp] theorem State.writeInAvail_inB (s : State) (n : Count) :
    (s.writeInAvail n).inB = s.inB := rfl
@[simp] theorem State.writeInAvail_inAvail (s : State) (n : Count) :
    (s.writeInAvail n).inAvail = n := rfl
@[simp] theorem State.writeInAvail_outB (s : State) (n : Count) :
    (s.writeInAvail n).outB = s.outB := rfl
@[simp] theorem State.writeInAvail_outLen (s : State) (n : Count) :
    (s.writeInAvail n).outLen = s.outLen := rfl
@[simp] theorem State.writeInAvail_outValue (s : State) (n : Count) :
    (s.writeInAvail n).outValue = s.outValue := rfl
@[simp] theorem State.writeInAvail_outConsumed (s : State) (n : Count) :
    (s.writeInAvail n).outConsumed = s.outConsumed := rfl
@[simp] theorem State.writeInAvail_written (s : State) (n : Count) :
    (s.writeInAvail n).written = s.written := rfl
@[simp] theorem State.writeInAvail_modelFault (s : State) (n : Count) :
    (s.writeInAvail n).modelFault = s.modelFault := rfl
@[simp] theorem State.writeInAvail_resets (s : State) (n : Count) :
    (s.writeInAvail n).resets = s.resets := rfl
@[simp] theorem State.writeInAvail_pending (s : State) (n : Count) :
    (s.writeInAvail n).pending = s.pending := rfl
@[simp] theorem State.writeInAvail_reads (s : State) (n : Count) :
    (s.writeInAvail n).reads = s.reads := rfl

@[simp] theorem State.writeOutBytes_cmd (s : State) (l : List Byte) :
    (s.writeOutBytes l).cmd = s.cmd := rfl
@[simp] theorem State.writeOutBytes_status (s : State) (l : List Byte) :
    (s.writeOutBytes l).status = s.status := rfl
@[simp] theorem State.writeOutBytes_inValue (s : State) (l : List Byte) :
    (s.writeOutBytes l).inValue = s.inValue := rfl
@[simp] theorem State.writeOutBytes_inB (s : State) (l : List Byte) :
    (s.writeOutBytes l).inB = s.inB := rfl
@[simp] theorem State.writeOutBytes_inAvail (s : State) (l : List Byte) :
    (s.writeOutBytes l).inAvail = s.inAvail := rfl
@[simp] theorem State.writeOutBytes_outB (s : State) (l : List Byte) :
    (s.writeOutBytes l).outB = overwritePrefix l s.outB := rfl
@[simp] theorem State.writeOutBytes_outLen (s : State) (l : List Byte) :
    (s.writeOutBytes l).outLen = BitVec.ofNat 3 l.length := rfl
@[simp] theorem State.writeOutBytes_outValue (s : State) (l : List Byte) :
    (s.writeOutBytes l).outValue = s.outValue := rfl
@[simp] theorem State.writeOutBytes_outConsumed (s : State) (l : List Byte) :
    (s.writeOutBytes l).outConsumed = s.outConsumed := rfl
@[simp] theorem State.writeOutBytes_written (s : State) (l : List Byte) :
    (s.writeOutBytes l).written = s.written := rfl
@[simp] theorem State.writeOutBytes_modelFault (s : State) (l : List Byte) :
    (s.writeOutBytes l).modelFault = s.modelFault := rfl
@[simp] theorem State.writeOutBytes_resets (s : State) (l : List Byte) :
    (s.writeOutBytes l).resets = s.resets := rfl
@[simp] theorem State.writeOutBytes_pending (s : State) (l : List Byte) :
    (s.writeOutBytes l).pending = s.pending := rfl
@[simp] theorem State.writeOutBytes_reads (s : State) (l : List Byte) :
    (s.writeOutBytes l).reads = s.reads := rfl

@[simp] theorem State.writeOutValue_cmd (s : State) (v : Word) :
    (s.writeOutValue v).cmd = s.cmd := rfl
@[simp] theorem State.writeOutValue_status (s : State) (v : Word) :
    (s.writeOutValue v).status = s.status := rfl
@[simp] theorem State.writeOutValue_inValue (s : State) (v : Word) :
    (s.writeOutValue v).inValue = s.inValue := rfl
@[simp] theorem State.writeOutValue_inB (s : State) (v : Word) :
    (s.writeOutValue v).inB = s.inB := rfl
@[simp] theorem State.writeOutValue_inAvail (s : State) (v : Word) :
    (s.writeOutValue v).inAvail = s.inAvail := rfl
@[simp] theorem State.writeOutValue_outB (s : State) (v : Word) :
    (s.writeOutValue v).outB = s.outB := rfl
@[simp] theorem State.writeOutValue_outLen (s : State) (v : Word) :
    (s.writeOutValue v).outLen = s.outLen := rfl
@[simp] theorem State.writeOutValue_outValue (s : State) (v : Word) :
    (s.writeOutValue v).outValue = v := rfl
@[simp] theorem State.writeOutValue_outConsumed (s : State) (v : Word) :
    (s.writeOutValue v).outConsumed = s.outConsumed := rfl
@[simp] theorem State.writeOutValue_written (s : State) (v : Word) :
    (s.writeOutValue v).written = s.written := rfl
@[simp] theorem State.writeOutValue_modelFault (s : State) (v : Word) :
    (s.writeOutValue v).modelFault = s.modelFault := rfl
@[simp] theorem State.writeOutValue_resets (s : State) (v : Word) :
    (s.writeOutValue v).resets = s.resets := rfl
@[simp] theorem State.writeOutValue_pending (s : State) (v : Word) :
    (s.writeOutValue v).pending = s.pending := rfl
@[simp] theorem State.writeOutValue_reads (s : State) (v : Word) :
    (s.writeOutValue v).reads = s.reads := rfl

@[simp] theorem State.writeOutConsumed_cmd (s : State) (n : Count) :
    (s.writeOutConsumed n).cmd = s.cmd := rfl
@[simp] theorem State.writeOutConsumed_status (s : State) (n : Count) :
    (s.writeOutConsumed n).status = s.status := rfl
@[simp] theorem State.writeOutConsumed_inValue (s : State) (n : Count) :
    (s.writeOutConsumed n).inValue = s.inValue := rfl
@[simp] theorem State.writeOutConsumed_inB (s : State) (n : Count) :
    (s.writeOutConsumed n).inB = s.inB := rfl
@[simp] theorem State.writeOutConsumed_inAvail (s : State) (n : Count) :
    (s.writeOutConsumed n).inAvail = s.inAvail := rfl
@[simp] theorem State.writeOutConsumed_outB (s : State) (n : Count) :
    (s.writeOutConsumed n).outB = s.outB := rfl
@[simp] theorem State.writeOutConsumed_outLen (s : State) (n : Count) :
    (s.writeOutConsumed n).outLen = s.outLen := rfl
@[simp] theorem State.writeOutConsumed_outValue (s : State) (n : Count) :
    (s.writeOutConsumed n).outValue = s.outValue := rfl
@[simp] theorem State.writeOutConsumed_outConsumed (s : State) (n : Count) :
    (s.writeOutConsumed n).outConsumed = n := rfl
@[simp] theorem State.writeOutConsumed_written (s : State) (n : Count) :
    (s.writeOutConsumed n).written = s.written := rfl
@[simp] theorem State.writeOutConsumed_modelFault (s : State) (n : Count) :
    (s.writeOutConsumed n).modelFault = s.modelFault := rfl
@[simp] theorem State.writeOutConsumed_resets (s : State) (n : Count) :
    (s.writeOutConsumed n).resets = s.resets := rfl
@[simp] theorem State.writeOutConsumed_pending (s : State) (n : Count) :
    (s.writeOutConsumed n).pending = s.pending := rfl
@[simp] theorem State.writeOutConsumed_reads (s : State) (n : Count) :
    (s.writeOutConsumed n).reads = s.reads := rfl

@[simp] theorem State.recordModelFault_cmd (s : State) (m : ModelFault) :
    (s.recordModelFault m).cmd = s.cmd := rfl
@[simp] theorem State.recordModelFault_status (s : State) (m : ModelFault) :
    (s.recordModelFault m).status = s.status := rfl
@[simp] theorem State.recordModelFault_inValue (s : State) (m : ModelFault) :
    (s.recordModelFault m).inValue = s.inValue := rfl
@[simp] theorem State.recordModelFault_inB (s : State) (m : ModelFault) :
    (s.recordModelFault m).inB = s.inB := rfl
@[simp] theorem State.recordModelFault_inAvail (s : State) (m : ModelFault) :
    (s.recordModelFault m).inAvail = s.inAvail := rfl
@[simp] theorem State.recordModelFault_outB (s : State) (m : ModelFault) :
    (s.recordModelFault m).outB = s.outB := rfl
@[simp] theorem State.recordModelFault_outLen (s : State) (m : ModelFault) :
    (s.recordModelFault m).outLen = s.outLen := rfl
@[simp] theorem State.recordModelFault_outValue (s : State) (m : ModelFault) :
    (s.recordModelFault m).outValue = s.outValue := rfl
@[simp] theorem State.recordModelFault_outConsumed (s : State) (m : ModelFault) :
    (s.recordModelFault m).outConsumed = s.outConsumed := rfl
@[simp] theorem State.recordModelFault_written (s : State) (m : ModelFault) :
    (s.recordModelFault m).written = s.written := rfl
@[simp] theorem State.recordModelFault_modelFault (s : State) (m : ModelFault) :
    (s.recordModelFault m).modelFault = s.modelFault.or (some m) := rfl
@[simp] theorem State.recordModelFault_resets (s : State) (m : ModelFault) :
    (s.recordModelFault m).resets = s.resets := rfl
@[simp] theorem State.recordModelFault_pending (s : State) (m : ModelFault) :
    (s.recordModelFault m).pending = s.pending := rfl
@[simp] theorem State.recordModelFault_reads (s : State) (m : ModelFault) :
    (s.recordModelFault m).reads = s.reads := rfl

@[simp] theorem State.withPending_cmd (s : State) (es : List HostEvent) :
    (s.withPending es).cmd = s.cmd := rfl
@[simp] theorem State.withPending_status (s : State) (es : List HostEvent) :
    (s.withPending es).status = s.status := rfl
@[simp] theorem State.withPending_inValue (s : State) (es : List HostEvent) :
    (s.withPending es).inValue = s.inValue := rfl
@[simp] theorem State.withPending_inB (s : State) (es : List HostEvent) :
    (s.withPending es).inB = s.inB := rfl
@[simp] theorem State.withPending_inAvail (s : State) (es : List HostEvent) :
    (s.withPending es).inAvail = s.inAvail := rfl
@[simp] theorem State.withPending_outB (s : State) (es : List HostEvent) :
    (s.withPending es).outB = s.outB := rfl
@[simp] theorem State.withPending_outLen (s : State) (es : List HostEvent) :
    (s.withPending es).outLen = s.outLen := rfl
@[simp] theorem State.withPending_outValue (s : State) (es : List HostEvent) :
    (s.withPending es).outValue = s.outValue := rfl
@[simp] theorem State.withPending_outConsumed (s : State) (es : List HostEvent) :
    (s.withPending es).outConsumed = s.outConsumed := rfl
@[simp] theorem State.withPending_written (s : State) (es : List HostEvent) :
    (s.withPending es).written = s.written := rfl
@[simp] theorem State.withPending_modelFault (s : State) (es : List HostEvent) :
    (s.withPending es).modelFault = s.modelFault := rfl
@[simp] theorem State.withPending_resets (s : State) (es : List HostEvent) :
    (s.withPending es).resets = s.resets := rfl
@[simp] theorem State.withPending_pending (s : State) (es : List HostEvent) :
    (s.withPending es).pending = es := rfl
@[simp] theorem State.withPending_reads (s : State) (es : List HostEvent) :
    (s.withPending es).reads = s.reads := rfl

@[simp] theorem State.pushRead_cmd (s : State) (r : HostRead) :
    (s.pushRead r).cmd = s.cmd := rfl
@[simp] theorem State.pushRead_status (s : State) (r : HostRead) :
    (s.pushRead r).status = s.status := rfl
@[simp] theorem State.pushRead_inValue (s : State) (r : HostRead) :
    (s.pushRead r).inValue = s.inValue := rfl
@[simp] theorem State.pushRead_inB (s : State) (r : HostRead) :
    (s.pushRead r).inB = s.inB := rfl
@[simp] theorem State.pushRead_inAvail (s : State) (r : HostRead) :
    (s.pushRead r).inAvail = s.inAvail := rfl
@[simp] theorem State.pushRead_outB (s : State) (r : HostRead) :
    (s.pushRead r).outB = s.outB := rfl
@[simp] theorem State.pushRead_outLen (s : State) (r : HostRead) :
    (s.pushRead r).outLen = s.outLen := rfl
@[simp] theorem State.pushRead_outValue (s : State) (r : HostRead) :
    (s.pushRead r).outValue = s.outValue := rfl
@[simp] theorem State.pushRead_outConsumed (s : State) (r : HostRead) :
    (s.pushRead r).outConsumed = s.outConsumed := rfl
@[simp] theorem State.pushRead_written (s : State) (r : HostRead) :
    (s.pushRead r).written = s.written := rfl
@[simp] theorem State.pushRead_modelFault (s : State) (r : HostRead) :
    (s.pushRead r).modelFault = s.modelFault := rfl
@[simp] theorem State.pushRead_resets (s : State) (r : HostRead) :
    (s.pushRead r).resets = s.resets := rfl
@[simp] theorem State.pushRead_pending (s : State) (r : HostRead) :
    (s.pushRead r).pending = s.pending := rfl
@[simp] theorem State.pushRead_reads (s : State) (r : HostRead) :
    (s.pushRead r).reads = s.reads ++ [r] := rfl

@[simp] theorem State.resetBlock_cmd (s : State) :
    (s.resetBlock).cmd = 0x00#8 := rfl
@[simp] theorem State.resetBlock_status (s : State) :
    (s.resetBlock).status = 0x00#8 := rfl
@[simp] theorem State.resetBlock_inValue (s : State) :
    (s.resetBlock).inValue = 0#32 := rfl
@[simp] theorem State.resetBlock_inB (s : State) :
    (s.resetBlock).inB = zeroBytes5 := rfl
@[simp] theorem State.resetBlock_inAvail (s : State) :
    (s.resetBlock).inAvail = 0#3 := rfl
@[simp] theorem State.resetBlock_outB (s : State) :
    (s.resetBlock).outB = zeroBytes5 := rfl
@[simp] theorem State.resetBlock_outLen (s : State) :
    (s.resetBlock).outLen = 0#3 := rfl
@[simp] theorem State.resetBlock_outValue (s : State) :
    (s.resetBlock).outValue = 0#32 := rfl
@[simp] theorem State.resetBlock_outConsumed (s : State) :
    (s.resetBlock).outConsumed = 0#3 := rfl
@[simp] theorem State.resetBlock_written (s : State) :
    (s.resetBlock).written = InputsWritten.none := rfl
@[simp] theorem State.resetBlock_modelFault (s : State) :
    (s.resetBlock).modelFault = s.modelFault := rfl
@[simp] theorem State.resetBlock_resets (s : State) :
    (s.resetBlock).resets = s.resets + 1 := rfl
@[simp] theorem State.resetBlock_pending (s : State) :
    (s.resetBlock).pending = s.pending := rfl
@[simp] theorem State.resetBlock_reads (s : State) :
    (s.resetBlock).reads = s.reads := rfl

@[simp] theorem State.useInputs_cmd (s : State) (rs : List Reg) :
    (s.useInputs rs).cmd = s.cmd := by
  unfold State.useInputs; split <;> rfl
@[simp] theorem State.useInputs_status (s : State) (rs : List Reg) :
    (s.useInputs rs).status = s.status := by
  unfold State.useInputs; split <;> rfl
@[simp] theorem State.useInputs_inValue (s : State) (rs : List Reg) :
    (s.useInputs rs).inValue = s.inValue := by
  unfold State.useInputs; split <;> rfl
@[simp] theorem State.useInputs_inB (s : State) (rs : List Reg) :
    (s.useInputs rs).inB = s.inB := by
  unfold State.useInputs; split <;> rfl
@[simp] theorem State.useInputs_inAvail (s : State) (rs : List Reg) :
    (s.useInputs rs).inAvail = s.inAvail := by
  unfold State.useInputs; split <;> rfl
@[simp] theorem State.useInputs_outB (s : State) (rs : List Reg) :
    (s.useInputs rs).outB = s.outB := by
  unfold State.useInputs; split <;> rfl
@[simp] theorem State.useInputs_outLen (s : State) (rs : List Reg) :
    (s.useInputs rs).outLen = s.outLen := by
  unfold State.useInputs; split <;> rfl
@[simp] theorem State.useInputs_outValue (s : State) (rs : List Reg) :
    (s.useInputs rs).outValue = s.outValue := by
  unfold State.useInputs; split <;> rfl
@[simp] theorem State.useInputs_outConsumed (s : State) (rs : List Reg) :
    (s.useInputs rs).outConsumed = s.outConsumed := by
  unfold State.useInputs; split <;> rfl
@[simp] theorem State.useInputs_written (s : State) (rs : List Reg) :
    (s.useInputs rs).written = s.written := by
  unfold State.useInputs; split <;> rfl
@[simp] theorem State.useInputs_resets (s : State) (rs : List Reg) :
    (s.useInputs rs).resets = s.resets := by
  unfold State.useInputs; split <;> rfl
@[simp] theorem State.useInputs_pending (s : State) (rs : List Reg) :
    (s.useInputs rs).pending = s.pending := by
  unfold State.useInputs; split <;> rfl
@[simp] theorem State.useInputs_reads (s : State) (rs : List Reg) :
    (s.useInputs rs).reads = s.reads := by
  unfold State.useInputs; split <;> rfl

end Sys2Proof.Machine
end

