-- ==== Sys2Proof/Laws/Flags.lean ====
section
/-! SUPPORT. STATUS by its fields: what clearing, setting and raising do to each flag and to the reserved bit. -/

namespace Sys2Proof.Machine

/-- A flag depends on STATUS alone. -/
theorem State.flag_congr {s t : State} (h : t.status = s.status) (f : StatusFlag) : t.flag f = s.flag f := by
  unfold State.flag
  rw [h]

/-- Every field lies below the reserved bit. -/
theorem StatusFlag.bit_lt (f : StatusFlag) : f.bit < 7 := by
  cases f <;> decide

/-- Distinct fields have distinct bits. -/
theorem StatusFlag.bit_inj {f g : StatusFlag} (h : f.bit = g.bit) : f = g := by
  cases f <;> cases g <;> first | rfl | cases h

/-- One bit set in a byte. -/
theorem getLsbD_or_bit (b : Byte) (m n : Nat) (hm : m < 8) :
    (b ||| (1#8 <<< m)).getLsbD n = (b.getLsbD n || decide (n = m)) := by
  by_cases h : n = m
  · subst h
    simp [hm]
  · rcases Nat.lt_or_gt_of_ne h with h' | h'
    · simp [h, h']
    · have : n - m ≠ 0 := by omega
      simp [h, this]

/-- Setting a field sets it and no other. -/
@[simp] theorem State.setFlag_flag (s : State) (f g : StatusFlag) :
    (s.setFlag f).flag g = (s.flag g || decide (g = f)) := by
  have hf : f.bit < 8 := Nat.lt_of_lt_of_le f.bit_lt (by decide)
  have h : decide (g.bit = f.bit) = decide (g = f) :=
    decide_eq_decide.mpr ⟨StatusFlag.bit_inj, fun h => h ▸ rfl⟩
  exact (getLsbD_or_bit s.status f.bit g.bit hf).trans (by rw [h]; rfl)

/-- Setting a field leaves the reserved bit. -/
theorem State.setFlag_reserved (s : State) (f : StatusFlag) :
    (s.setFlag f).status.getLsbD 7 = s.status.getLsbD 7 := by
  have hf := f.bit_lt
  have h : (7 = f.bit) = False := eq_false (by omega)
  rw [State.setFlag_status, getLsbD_or_bit s.status f.bit 7 (by omega)]
  simp [h]

/-- The clear at issue keeps STICKY and clears the other fields (R25). -/
@[simp] theorem State.clearCommandStatus_flag (s : State) (f : StatusFlag) :
    s.clearCommandStatus.flag f = (decide (f = .sticky) && s.flag .sticky) := by
  simp only [State.flag, State.clearCommandStatus_status, BitVec.getLsbD_and]
  cases f <;> simp [StatusFlag.bit]

/-- The clear at issue keeps the reserved bit (R25). -/
theorem State.clearCommandStatus_reserved (s : State) :
    s.clearCommandStatus.status.getLsbD 7 = s.status.getLsbD 7 := by
  simp only [State.clearCommandStatus_status, BitVec.getLsbD_and]
  simp

/-- Raising an error sets its field and STICKY (R18). -/
@[simp] theorem State.raise_flag (s : State) (e : ErrorCause) (f : StatusFlag) :
    (s.raise e).flag f = (s.flag f || decide (f = e.flag) || decide (f = .sticky)) := by
  simp [State.raise]

/-- Raising an error leaves the reserved bit. -/
theorem State.raise_reserved (s : State) (e : ErrorCause) :
    (s.raise e).status.getLsbD 7 = s.status.getLsbD 7 := by
  simp only [State.raise, State.setFlag_reserved]

/-- The use of inputs leaves every flag. -/
@[simp] theorem State.useInputs_flag (s : State) (rs : List Reg) (f : StatusFlag) :
    (s.useInputs rs).flag f = s.flag f :=
  State.flag_congr (State.useInputs_status s rs) f

/-- A write of OUT_B and OUT_LEN leaves every flag. -/
@[simp] theorem State.writeOutBytes_flag (s : State) (l : List Byte) (f : StatusFlag) :
    (s.writeOutBytes l).flag f = s.flag f := rfl

/-- A write of OUT_VALUE leaves every flag. -/
@[simp] theorem State.writeOutValue_flag (s : State) (v : Word) (f : StatusFlag) :
    (s.writeOutValue v).flag f = s.flag f := rfl

/-- A write of OUT_CONSUMED leaves every flag. -/
@[simp] theorem State.writeOutConsumed_flag (s : State) (n : Count) (f : StatusFlag) :
    (s.writeOutConsumed n).flag f = s.flag f := rfl

/-- A write of CMD leaves every flag. -/
@[simp] theorem State.storeCmd_flag (s : State) (c : Byte) (f : StatusFlag) :
    (s.storeCmd c).flag f = s.flag f := rfl

/-- Taking the next access leaves every flag. -/
@[simp] theorem State.withPending_flag (s : State) (es : List HostEvent) (f : StatusFlag) :
    (s.withPending es).flag f = s.flag f := rfl

end Sys2Proof.Machine
end

