-- ==== Sys2Proof/Laws/Wire.lean ====
section
/-! SUPPORT. The wire format's functions as arithmetic on naturals, one lemma per function. -/

namespace Sys2Proof.Machine

/-- A bit field of a word, as division and remainder. -/
theorem byteField_toNat (v : Word) (hi lo : Nat) (h : hi - lo < 8) :
    (byteField v hi lo).toNat = v.toNat / 2 ^ lo % 2 ^ (hi - lo + 1) := by
  have h2 : 2 ^ (hi - lo + 1) ≤ 2 ^ 8 := Nat.pow_le_pow_right (by decide) (by omega)
  have h3 : v.toNat / 2 ^ lo % 2 ^ (hi - lo + 1) < 2 ^ 8 :=
    Nat.lt_of_lt_of_le (Nat.mod_lt _ (Nat.two_pow_pos _)) h2
  simpa [byteField, Nat.shiftRight_eq_div_pow] using h3

/-- A bit field of a byte, as division and remainder. -/
theorem wordField_toNat (b : Byte) (hi lo : Nat) :
    (wordField b hi lo).toNat = b.toNat / 2 ^ lo % 2 ^ (hi - lo + 1) := by
  have h1 : b.toNat / 2 ^ lo % 2 ^ (hi - lo + 1) ≤ b.toNat :=
    Nat.le_trans (Nat.mod_le _ _) (Nat.div_le_self _ _)
  have h2 : b.toNat / 2 ^ lo % 2 ^ (hi - lo + 1) < 2 ^ 32 := by
    have := b.isLt
    omega
  simpa [wordField, Nat.shiftRight_eq_div_pow] using h2

/-- A tag above a field adds up, where the field does not reach the tag. -/
theorem or_eq_add_of_lt (a b n : Nat) (hb : b < 2 ^ n) : a * 2 ^ n ||| b = a * 2 ^ n + b := by
  rw [Nat.mul_comm]
  exact (Nat.two_pow_add_eq_or_of_lt hb a).symm

/-- The class of a value, by its length. -/
theorem lenOf_bytes (v : Word) : (lenOf v).bytes = lengthOfValue v.toNat := by
  unfold lenOf lengthOfValue
  split_ifs <;> rfl

/-- The class of a byte 0, by its range. -/
theorem classOf_bytes (b : Byte) : (classOf b).bytes = lengthOfByte0 b.toNat := by
  revert b
  decide

/-- Classes with the same number of bytes are the same. -/
theorem LenClass.bytes_inj {c d : LenClass} (h : c.bytes = d.bytes) : c = d := by
  cases c <;> cases d <;> first | rfl | cases h

/-- A class has 1 to 5 bytes, so its count loses nothing in 3 bits. -/
@[simp] theorem LenClass.count_toNat (c : LenClass) : c.count.toNat = c.bytes := by
  cases c <;> rfl

/-- No encoding is longer than the scratch register (R8). -/
theorem LenClass.bytes_le_scratch (c : LenClass) : 1 ≤ c.bytes ∧ c.bytes ≤ Config.scratchBytes := by
  cases c <;> decide

/-- The encoder writes as many bytes as the class has, under either byte order. -/
@[simp] theorem enc_length (o : Byte0Order) (v : Word) : (enc o v).length = (lenOf v).bytes := by
  cases o <;> simp only [enc, encHigh, encLow] <;> cases lenOf v <;> rfl

/-- A position of a five-byte register after a prefix was written. -/
theorem byteAt_overwritePrefix (l : List Byte) (b : Bytes5) (k : Fin 5) :
    byteAt (overwritePrefix l b) k = l.getD k.val (byteAt b k) := by
  fin_cases k <;> rfl

/-- A byte replaced in a five-byte register. -/
theorem byteAt_setByteAt (b : Bytes5) (j k : Fin 5) (v : Byte) :
    byteAt (setByteAt b j v) k = if k = j then v else byteAt b k := by
  fin_cases j <;> fin_cases k <;> rfl

/-- A window byte marked as written. -/
theorem byteWritten_markByteWritten (w : InputsWritten) (j k : Fin 5) :
    byteWritten (markByteWritten w j) k = (decide (k = j) || byteWritten w k) := by
  fin_cases j <;> fin_cases k <;> rfl

/-- Two five-byte registers with the same bytes are the same. -/
theorem Bytes5.ext_byteAt {a b : Bytes5} (h : ∀ k : Fin 5, byteAt a k = byteAt b k) : a = b := by
  cases a
  cases b
  simp only [Bytes5.mk.injEq]
  exact ⟨h 0, h 1, h 2, h 3, h 4⟩

/-- A tag above a byte field adds up. -/
theorem tag_or_toNat (t f : Byte) (n : Nat) (ht : t.toNat = t.toNat / 2 ^ n * 2 ^ n) (hf : f.toNat < 2 ^ n) :
    (t ||| f).toNat = t.toNat + f.toNat := by
  rw [BitVec.toNat_or, ht, or_eq_add_of_lt _ _ _ hf]

/-- A word shifted above another adds up, where neither reaches the other. -/
theorem shift_or_toNat (a b : Word) (k : Nat) (hb : b.toNat < 2 ^ k) (ha : a.toNat * 2 ^ k < 2 ^ 32) :
    (a <<< k ||| b).toNat = a.toNat * 2 ^ k + b.toNat := by
  rw [BitVec.toNat_or, BitVec.toNat_shiftLeft, Nat.shiftLeft_eq, Nat.mod_eq_of_lt ha, or_eq_add_of_lt _ _ _ hb]

/-- The same with the shifted word second. -/
theorem or_shift_toNat (a b : Word) (k : Nat) (hb : b.toNat < 2 ^ k) (ha : a.toNat * 2 ^ k < 2 ^ 32) :
    (b ||| a <<< k).toNat = b.toNat + a.toNat * 2 ^ k := by
  rw [BitVec.or_comm, shift_or_toNat _ _ _ hb ha, Nat.add_comm]

/-- The HIGH layout by division (R62). -/
theorem encHigh_toNat (v : Word) : (encHigh v).map BitVec.toNat = highBytes v.toNat := by
  have hv := v.isLt
  unfold encHigh lenOf highBytes
  split_ifs with h1 h2 h3 h4 <;> simp only [List.map]
  · simp [byteField_toNat]
    omega
  · rw [tag_or_toNat _ _ 6 (by decide) (by simp [byteField_toNat]; omega)]
    simp [byteField_toNat]
    omega
  · rw [tag_or_toNat _ _ 5 (by decide) (by simp [byteField_toNat]; omega)]
    simp [byteField_toNat]
    omega
  · rw [tag_or_toNat _ _ 4 (by decide) (by simp [byteField_toNat]; omega)]
    simp [byteField_toNat]
    omega
  · simp [byteField_toNat]
    omega

/-- The LOW layout by division (R66). -/
theorem encLow_toNat (v : Word) : (encLow v).map BitVec.toNat = lowBytes v.toNat := by
  have hv := v.isLt
  unfold encLow lenOf lowBytes
  split_ifs with h1 h2 h3 h4 <;> simp only [List.map]
  · simp [byteField_toNat]
    omega
  · rw [tag_or_toNat _ _ 6 (by decide) (by simp [byteField_toNat]; omega)]
    simp [byteField_toNat]
    omega
  · rw [tag_or_toNat _ _ 5 (by decide) (by simp [byteField_toNat]; omega)]
    simp [byteField_toNat]
    omega
  · rw [tag_or_toNat _ _ 4 (by decide) (by simp [byteField_toNat]; omega)]
    simp [byteField_toNat]
    omega
  · rw [tag_or_toNat _ _ 3 (by decide) (by simp [byteField_toNat]; omega)]
    simp [byteField_toNat]
    omega

/-- The class of a byte 0 with its range, one case a class (R60). -/
theorem classOf_range (b0 : Byte) :
    (classOf b0 = .one ∧ b0.toNat < 0x80) ∨
    (classOf b0 = .two ∧ 0x80 ≤ b0.toNat ∧ b0.toNat < 0xC0) ∨
    (classOf b0 = .three ∧ 0xC0 ≤ b0.toNat ∧ b0.toNat < 0xE0) ∨
    (classOf b0 = .four ∧ 0xE0 ≤ b0.toNat ∧ b0.toNat < 0xF0) ∨
    (classOf b0 = .five ∧ 0xF0 ≤ b0.toNat) := by
  revert b0
  decide

/-- The three bytes above byte 0, put together. -/
theorem highTail_toNat (b : Bytes5) :
    (wordField b.b2 7 0 <<< 8 ||| wordField b.b1 7 0).toNat = b.b2.toNat * 2 ^ 8 + b.b1.toNat ∧
    (wordField b.b3 7 0 <<< 16 ||| (wordField b.b2 7 0 <<< 8 ||| wordField b.b1 7 0)).toNat =
      b.b3.toNat * 2 ^ 16 + (b.b2.toNat * 2 ^ 8 + b.b1.toNat) := by
  have h1 := b.b1.isLt
  have h2 := b.b2.isLt
  have h3 := b.b3.isLt
  have e : (wordField b.b2 7 0 <<< 8 ||| wordField b.b1 7 0).toNat = b.b2.toNat * 2 ^ 8 + b.b1.toNat := by
    rw [shift_or_toNat _ _ _ (by rw [wordField_toNat]; omega) (by rw [wordField_toNat]; omega), wordField_toNat,
      wordField_toNat]
    omega
  refine ⟨e, ?_⟩
  rw [shift_or_toNat _ _ _ (by rw [e]; omega) (by rw [wordField_toNat]; omega), e, wordField_toNat]
  omega

/-- The value of a window under HIGH, by multiplication (R64). -/
theorem valHigh_toNat (b : Bytes5) : (valHigh (classOf b.b0) b).toNat = highValue b := by
  have h0 := b.b0.isLt
  have h1 := b.b1.isLt
  have h2 := b.b2.isLt
  have h3 := b.b3.isLt
  have h4 := b.b4.isLt
  have W := wordField_toNat
  obtain ⟨e2, e3⟩ := highTail_toNat b
  unfold highValue
  rcases classOf_range b.b0 with ⟨hc, h⟩ | ⟨hc, h, h'⟩ | ⟨hc, h, h'⟩ | ⟨hc, h, h'⟩ | ⟨hc, h⟩ <;> rw [hc] <;>
    simp only [valHigh, BitVec.or_assoc]
  · rw [if_pos h, W]
    omega
  · rw [if_neg (by omega), if_pos h', shift_or_toNat _ _ _ (by rw [W]; omega) (by rw [W]; omega), W, W]
    omega
  · rw [if_neg (by omega), if_neg (by omega), if_pos h',
      shift_or_toNat _ _ _ (by rw [e2]; omega) (by rw [W]; omega), e2, W]
    omega
  · rw [if_neg (by omega), if_neg (by omega), if_neg (by omega), if_pos h',
      shift_or_toNat _ _ _ (by rw [e3]; omega) (by rw [W]; omega), e3, W]
    omega
  · rw [if_neg (by omega), if_neg (by omega), if_neg (by omega), if_neg (by omega),
      shift_or_toNat _ _ _ (by rw [e3]; omega) (by rw [W]; omega), e3, W]
    omega

/-- The value of a window under LOW, by multiplication (R67). -/
theorem valLow_toNat (b : Bytes5) : (valLow (classOf b.b0) b).toNat = lowValue b := by
  have h0 := b.b0.isLt
  have h1 := b.b1.isLt
  have h2 := b.b2.isLt
  have h3 := b.b3.isLt
  have h4 := b.b4.isLt
  have W := wordField_toNat
  unfold lowValue
  rcases classOf_range b.b0 with ⟨hc, h⟩ | ⟨hc, h, h'⟩ | ⟨hc, h, h'⟩ | ⟨hc, h, h'⟩ | ⟨hc, h⟩ <;> rw [hc] <;>
    simp only [valLow]
  · rw [if_pos h, W]
    omega
  · rw [if_neg (by omega), if_pos h', or_shift_toNat _ _ _ (by rw [W]; omega) (by rw [W]; omega), W, W]
    omega
  · have e : (wordField b.b0 4 0 ||| wordField b.b1 7 0 <<< 5).toNat =
        b.b0.toNat % 32 + b.b1.toNat * 2 ^ 5 := by
      rw [or_shift_toNat _ _ _ (by rw [W]; omega) (by rw [W]; omega), W, W]
      omega
    rw [if_neg (by omega), if_neg (by omega), if_pos h',
      or_shift_toNat _ _ _ (by rw [e]; omega) (by rw [W]; omega), e, W]
    omega
  · have e : (wordField b.b0 3 0 ||| wordField b.b1 7 0 <<< 4).toNat =
        b.b0.toNat % 16 + b.b1.toNat * 2 ^ 4 := by
      rw [or_shift_toNat _ _ _ (by rw [W]; omega) (by rw [W]; omega), W, W]
      omega
    have e3 : (wordField b.b0 3 0 ||| wordField b.b1 7 0 <<< 4 ||| wordField b.b2 7 0 <<< 12).toNat =
        b.b0.toNat % 16 + b.b1.toNat * 2 ^ 4 + b.b2.toNat * 2 ^ 12 := by
      rw [or_shift_toNat _ _ _ (by rw [e]; omega) (by rw [W]; omega), e, W]
      omega
    rw [if_neg (by omega), if_neg (by omega), if_neg (by omega), if_pos h',
      or_shift_toNat _ _ _ (by rw [e3]; omega) (by rw [W]; omega), e3, W]
    omega
  · have e : (wordField b.b0 2 0 ||| wordField b.b1 7 0 <<< 3).toNat =
        b.b0.toNat % 8 + b.b1.toNat * 2 ^ 3 := by
      rw [or_shift_toNat _ _ _ (by rw [W]; omega) (by rw [W]; omega), W, W]
      omega
    have e3 : (wordField b.b0 2 0 ||| wordField b.b1 7 0 <<< 3 ||| wordField b.b2 7 0 <<< 11).toNat =
        b.b0.toNat % 8 + b.b1.toNat * 2 ^ 3 + b.b2.toNat * 2 ^ 11 := by
      rw [or_shift_toNat _ _ _ (by rw [e]; omega) (by rw [W]; omega), e, W]
      omega
    have e4 : (wordField b.b0 2 0 ||| wordField b.b1 7 0 <<< 3 ||| wordField b.b2 7 0 <<< 11 |||
        wordField b.b3 7 0 <<< 19).toNat =
        b.b0.toNat % 8 + b.b1.toNat * 2 ^ 3 + b.b2.toNat * 2 ^ 11 + b.b3.toNat * 2 ^ 19 := by
      rw [or_shift_toNat _ _ _ (by rw [e3]; omega) (by rw [W]; omega), e3, W]
      omega
    rw [if_neg (by omega), if_neg (by omega), if_neg (by omega), if_neg (by omega),
      or_shift_toNat _ _ _ (by rw [e4]; omega) (by rw [W]; omega), e4, W]
    omega

/-- The non-canonical test, by arithmetic (R92). -/
theorem noncanon5_iff (o : Byte0Order) (b : Bytes5) :
    (classOf b.b0 = .five ∧ noncanon5 o b = true) ↔ Noncanonical o b := by
  have h5 : classOf b.b0 = .five ↔ 0xF0 ≤ b.b0.toNat := by
    rcases classOf_range b.b0 with ⟨hc, h⟩ | ⟨hc, h, h'⟩ | ⟨hc, h, h'⟩ | ⟨hc, h, h'⟩ | ⟨hc, h⟩ <;> rw [hc] <;>
      simp <;> omega
  have low4 : ∀ x : Byte, (x.extractLsb 3 0 != 0#4) = decide (x.toNat % 16 ≠ 0) := by decide
  have bit3 : ∀ x : Byte, x.getLsbD 3 = decide (8 ≤ x.toNat % 16) := by decide
  have top3 : ∀ x : Byte, (x.extractLsb 7 5 != 0#3) = decide (0x20 ≤ x.toNat) := by decide
  unfold Noncanonical noncanon5
  rw [h5]
  cases o
  · simp [low4]
  · simp only [bit3, top3]
    simp

/-- The value of a window depends on the bytes of its class alone. -/
theorem val_congr (o : Byte0Order) (c : LenClass) {b b' : Bytes5}
    (h : ∀ k : Fin 5, k.val < c.bytes → byteAt b' k = byteAt b k) : val o c b' = val o c b := by
  have h0 := h 0
  have h1 := h 1
  have h2 := h 2
  have h3 := h 3
  have h4 := h 4
  simp only [byteAt] at h0 h1 h2 h3 h4
  cases o <;> cases c <;> simp [LenClass.bytes] at h0 h1 h2 h3 h4 <;> simp_all [val, valHigh, valLow]

end Sys2Proof.Machine
end

