-- ==== Sys2Proof/Laws/Ops.lean ====
section
/-! SUPPORT. What each shared operation of the commands can do, said once. -/

namespace Sys2Proof.Machine

/-- Whether an input is written depends on the marks alone. -/
theorem State.inputWritten_congr {s t : State} (h : t.written = s.written) (r : Reg) :
    t.inputWritten r = s.inputWritten r := by
  cases r <;> simp [State.inputWritten, h]

/-- Which of some inputs is the first unwritten one depends on the marks alone. -/
theorem State.firstUnwritten_congr {s t : State} (h : t.written = s.written) (rs : List Reg) :
    t.firstUnwritten rs = s.firstUnwritten rs := by
  simp only [State.firstUnwritten, State.inputWritten_congr h]

/-- No register is the first unwritten one exactly when each counts as written. -/
theorem State.firstUnwritten_eq_none (s : State) (rs : List Reg) :
    s.firstUnwritten rs = none ↔ ∀ r ∈ rs, s.inputWritten r = true := by
  simp [State.firstUnwritten]

/-- The first unwritten register is one of the registers, and unwritten. -/
theorem State.firstUnwritten_eq_some {s : State} {rs : List Reg} {r : Reg} (h : s.firstUnwritten rs = some r) :
    r ∈ rs ∧ s.inputWritten r = false := by
  refine ⟨List.mem_of_find?_eq_some h, ?_⟩
  simpa using List.find?_some h

/-- What the use of inputs records (R116 c). -/
theorem State.useInputs_modelFault (s : State) (rs : List Reg) :
    (s.useInputs rs).modelFault = s.modelFault.or ((s.firstUnwritten rs).map .unwrittenInput) := by
  unfold State.useInputs
  cases s.firstUnwritten rs <;> simp

/-- With every input written the use of inputs changes nothing. -/
theorem State.useInputs_ready {s : State} {rs : List Reg} (h : ∀ r ∈ rs, s.inputWritten r = true) :
    s.useInputs rs = s := by
  simp only [State.useInputs, (s.firstUnwritten_eq_none rs).2 h]

/-- A recorded model fault stays through the use of inputs. -/
theorem State.useInputs_keeps_fault (s : State) (rs : List Reg) (h : s.modelFault.isSome = true) :
    (s.useInputs rs).modelFault = s.modelFault := by
  rw [State.useInputs_modelFault]
  obtain ⟨m, hm⟩ := Option.isSome_iff_exists.1 h
  simp [hm]

/-- What is read in IN_VALUE once the host has written it. -/
theorem State.valueOperand_written {s : State} (h : s.inputWritten .inValue = true) : s.valueOperand = s.inValue :=
  if_pos h

/-- What is read in IN_B[k] once the host has written it. -/
theorem State.byteOperand_written {s : State} {k : Fin 5} (h : s.inputWritten (.inB k) = true) :
    s.byteOperand k = byteAt s.inB k :=
  if_pos h

/-- The bytes of the window as the decoder reads it. -/
@[simp] theorem State.byteAt_windowOperand (s : State) (k : Fin 5) : byteAt s.windowOperand k = s.byteOperand k := by
  fin_cases k <;> rfl

/-- The bytes available, as a number. -/
theorem State.avail_eq (s : State) : s.avail = min s.inAvail.toNat 5 := rfl

/-- The positions of a class are those below its length. -/
theorem LenClass.mem_positions (c : LenClass) (k : Fin 5) : k ∈ c.positions ↔ k.val < c.bytes := by
  cases c <;> revert k <;> decide

/-- A decode with byte 0 written, or none available, reads the first window bytes, as many as `windowBytesRead`
says. -/
theorem mem_decodeInputs (s : State) (h : 0 < s.avail → s.inputWritten (.inB 0) = true) (r : Reg) :
    r ∈ decodeInputs s ↔ ∃ k : Fin 5, k.val < windowBytesRead s ∧ r = .inB k := by
  have hb := (classOf s.inB.b0).bytes_le_scratch.1
  unfold decodeInputs windowBytesRead
  rw [← classOf_bytes, ← State.avail_eq]
  by_cases h0 : s.avail = 0
  · rw [if_pos h0, if_neg (by omega)]
    simp only [List.not_mem_nil, false_iff, not_exists, not_and]
    intro k hk
    simp only [State.avail_eq] at h0
    omega
  · have e0 : s.windowOperand.b0 = s.inB.b0 := State.byteOperand_written (h (by omega))
    rw [if_neg h0, e0]
    by_cases h1 : s.avail < (classOf s.inB.b0).bytes
    · have hm : min s.inAvail.toNat 1 = 1 := by
        simp only [State.avail_eq] at h0
        omega
      rw [if_pos h1, if_neg (by omega), hm]
      constructor
      · intro hr
        exact ⟨0, by decide, by simpa using hr⟩
      · rintro ⟨k, hk, rfl⟩
        have : k = 0 := Fin.ext (by simpa using hk)
        simp [this]
    · rw [if_neg h1, if_pos (by omega)]
      simp only [List.mem_map, LenClass.mem_positions]
      constructor
      · rintro ⟨k, hk, rfl⟩
        exact ⟨k, hk, rfl⟩
      · rintro ⟨k, hk, rfl⟩
        exact ⟨k, hk, rfl⟩

/-- With a byte available, a decode reads byte 0 first. -/
theorem decodeInputs_head (s : State) (h : 0 < s.avail) : ∃ rs, decodeInputs s = .inB 0 :: rs := by
  unfold decodeInputs
  rw [if_neg (by omega)]
  split
  · exact ⟨_, rfl⟩
  · cases classOf s.windowOperand.b0 <;> exact ⟨_, rfl⟩

/-- With a byte available, `windowBytesRead` counts byte 0. -/
theorem windowBytesRead_pos (s : State) (h : 0 < s.avail) : 0 < windowBytesRead s := by
  have hb := (classOf s.inB.b0).bytes_le_scratch.1
  simp only [State.avail_eq] at h
  unfold windowBytesRead
  rw [← classOf_bytes]
  split <;> omega

/-- A decode uses written bytes only, exactly when the first `windowBytesRead` bytes are written. -/
theorem decodeInputs_ready (s : State) :
    (∀ r ∈ decodeInputs s, s.inputWritten r = true) ↔
      ∀ k : Fin 5, k.val < windowBytesRead s → s.inputWritten (.inB k) = true := by
  constructor
  · intro h k hk
    refine h _ ((mem_decodeInputs s (fun h0 => ?_) _).2 ⟨k, hk, rfl⟩)
    obtain ⟨rs, e⟩ := decodeInputs_head s h0
    exact h _ (by simp [e])
  · intro h r hr
    obtain ⟨k, hk, rfl⟩ := (mem_decodeInputs s (fun h0 => h 0 (windowBytesRead_pos s h0)) _).1 hr
    exact h k hk

/-- STATUS when a command sets one field after the clear at issue. -/
theorem State.setFlag_clear_status (s : State) (f : StatusFlag) :
    (s.clearCommandStatus.setFlag f).status = statusAfter s (1#8 <<< f.bit) := rfl

/-- STATUS when a command raises an error after the clear at issue. -/
theorem State.raise_clear_status (s : State) (e : ErrorCause) :
    (s.clearCommandStatus.raise e).status = statusAfter s ((1#8 <<< e.flag.bit) ||| 0x40#8) := by
  simp only [State.raise_status, State.clearCommandStatus_status, statusAfter, BitVec.or_assoc]
  rfl

/-- The error path: every register but STATUS is as it was (R115). -/
theorem State.raise_registers (s : State) (e : ErrorCause) :
    RegistersKeptButStatus s (s.clearCommandStatus.raise e) := by
  constructor <;> rfl

/-- Everything the encoder's effect does for a value. -/
theorem encodeValue_spec (o : Byte0Order) (v : Word) (s : State) :
    CommandFrame s (encodeValue o v s) ∧ ValueOutputsKept s (encodeValue o v s) ∧
      (encodeValue o v s).status = statusAfter s 0x01#8 ∧
      (encodeValue o v s).outB = overwritePrefix (enc o v) s.outB ∧
      (encodeValue o v s).outLen = (lenOf v).count := by
  refine ⟨⟨?_, ?_, ?_, ?_, ?_, ?_, ?_, ?_, ?_, ?_, ?_⟩, ⟨?_, ?_⟩, ?_, ?_, ?_⟩ <;>
    simp [encodeValue, statusAfter, LenClass.count, StatusFlag.bit]

/-- Everything the zigzag coder's effect does for a value. -/
theorem zigzagValue_spec (v : Word) (s : State) :
    CommandFrame s (zigzagValue v s) ∧ ByteOutputsKept s (zigzagValue v s) ∧
      (zigzagValue v s).status = statusAfter s 0x02#8 ∧ (zigzagValue v s).outValue = v ∧
      (zigzagValue v s).outConsumed = s.outConsumed := by
  refine ⟨⟨?_, ?_, ?_, ?_, ?_, ?_, ?_, ?_, ?_, ?_, ?_⟩, ⟨?_, ?_⟩, ?_, ?_, ?_⟩ <;>
    simp [zigzagValue, statusAfter, StatusFlag.bit]

/-- The use of inputs changes nothing a command may not change. -/
theorem State.useInputs_frame (s : State) (rs : List Reg) : CommandFrame s (s.useInputs rs) := by
  refine ⟨?_, ?_, ?_, ?_, ?_, ?_, ?_, ?_, ?_, State.useInputs_keeps_fault s rs, ?_⟩ <;> simp

/-- Frames compose. -/
theorem CommandFrame.trans {s t u : State} (h : CommandFrame s t) (g : CommandFrame t u) : CommandFrame s u where
  cmd := g.cmd.trans h.cmd
  inValue := g.inValue.trans h.inValue
  inB := g.inB.trans h.inB
  inAvail := g.inAvail.trans h.inAvail
  written := g.written.trans h.written
  pending := g.pending.trans h.pending
  reads := g.reads.trans h.reads
  reserved := g.reserved.trans h.reserved
  sticky := fun hs => g.sticky (h.sticky hs)
  modelFault := fun hs => (g.modelFault (by rw [h.modelFault hs]; exact hs)).trans (h.modelFault hs)
  resets := g.resets.trans h.resets

/-- Everything an encode command does, with its operand written or free. -/
theorem encodeCommand_spec (o : Byte0Order) (pre : Word → Word) (s : State) :
    CommandFrame s (encodeCommand o pre s) ∧ ValueOutputsKept s (encodeCommand o pre s) ∧
      (encodeCommand o pre s).status = statusAfter s 0x01#8 ∧
      (encodeCommand o pre s).outB = overwritePrefix (enc o (pre s.valueOperand)) s.outB ∧
      (encodeCommand o pre s).outLen = (lenOf (pre s.valueOperand)).count ∧
      (encodeCommand o pre s).modelFault = (s.useInputs [.inValue]).modelFault := by
  obtain ⟨hf, hv, hst, hb, hl⟩ := encodeValue_spec o (pre s.valueOperand) (s.useInputs [.inValue])
  refine ⟨(s.useInputs_frame _).trans hf, ⟨?_, ?_⟩, ?_, ?_, hl, rfl⟩
  · exact hv.outValue.trans (by simp)
  · exact hv.outConsumed.trans (by simp)
  · exact hst.trans (by simp [statusAfter])
  · exact hb.trans (by simp)

/-- Everything a zigzag command does, with its operand written or free. -/
theorem zigzagCommand_spec (f : Word → Word) (s : State) :
    CommandFrame s (zigzagCommand f s) ∧ ByteOutputsKept s (zigzagCommand f s) ∧
      (zigzagCommand f s).status = statusAfter s 0x02#8 ∧
      (zigzagCommand f s).outValue = f s.valueOperand ∧
      (zigzagCommand f s).outConsumed = s.outConsumed ∧
      (zigzagCommand f s).modelFault = (s.useInputs [.inValue]).modelFault := by
  obtain ⟨hf, hb, hst, hv, hc⟩ := zigzagValue_spec (f s.valueOperand) (s.useInputs [.inValue])
  refine ⟨(s.useInputs_frame _).trans hf, ⟨?_, ?_⟩, ?_, hv, ?_, rfl⟩
  · exact hb.outB.trans (by simp)
  · exact hb.outLen.trans (by simp)
  · exact hst.trans (by simp [statusAfter])
  · exact hc.trans (by simp)

/-- The decoder's effect is one of four, told by the bytes available, byte 0 and the policy (R90, R114). -/
theorem decodeWindow_cases (o : Byte0Order) (pol : Noncanon5Policy) (post : Word → Word) (w : Bytes5) (s : State) :
    (s.avail = 0 ∧ decodeWindow o pol post w s = s.clearCommandStatus.raise .decodeShort) ∨
    (s.avail ≠ 0 ∧ s.avail < (classOf w.b0).bytes ∧
      decodeWindow o pol post w s = s.clearCommandStatus.raise .decodeShort) ∨
    (s.avail ≠ 0 ∧ ¬ s.avail < (classOf w.b0).bytes ∧
      (classOf w.b0 = .five ∧ noncanon5 o w = true ∧ pol = .error) ∧
      decodeWindow o pol post w s = s.clearCommandStatus.raise .decodeNonCanonical) ∨
    (s.avail ≠ 0 ∧ ¬ s.avail < (classOf w.b0).bytes ∧
      ¬ (classOf w.b0 = .five ∧ noncanon5 o w = true ∧ pol = .error) ∧
      decodeWindow o pol post w s =
        (((s.clearCommandStatus.writeOutValue (post (val o (classOf w.b0) w))).writeOutConsumed
          (classOf w.b0).count).setFlag .vv).setFlag .cv) := by
  unfold decodeWindow
  split_ifs with h0 h1 h2
  · exact .inl ⟨h0, rfl⟩
  · exact .inr (.inl ⟨h0, h1, rfl⟩)
  · exact .inr (.inr (.inl ⟨h0, h1, h2, rfl⟩))
  · exact .inr (.inr (.inr ⟨h0, h1, h2, rfl⟩))

/-- What the decoder's effect never changes, whichever of them it is, and that a failed one writes no output. -/
theorem decodeWindow_frame (o : Byte0Order) (pol : Noncanon5Policy) (post : Word → Word) (w : Bytes5) (s : State) :
    CommandFrame s (decodeWindow o pol post w s) ∧ ByteOutputsKept s (decodeWindow o pol post w s) ∧
      (decodeWindow o pol post w s).modelFault = s.modelFault ∧
      ((decodeWindow o pol post w s).flag .vv = false → ValueOutputsKept s (decodeWindow o pol post w s)) := by
  rcases decodeWindow_cases o pol post w s with ⟨_, e⟩ | ⟨_, _, e⟩ | ⟨_, _, _, e⟩ | ⟨_, _, _, e⟩ <;> rw [e] <;>
    refine ⟨⟨?_, ?_, ?_, ?_, ?_, ?_, ?_, ?_, ?_, ?_, ?_⟩, ⟨?_, ?_⟩, ?_, ?_⟩ <;> simp [StatusFlag.bit, ErrorCause.flag]
  · exact ⟨rfl, rfl⟩
  · exact ⟨rfl, rfl⟩
  · exact ⟨rfl, rfl⟩

/-- A decode with too few bytes: DecodeShort, and every register but STATUS as it was (R90). -/
theorem decodeWindow_short (o : Byte0Order) (pol : Noncanon5Policy) (post : Word → Word) (w : Bytes5) (s : State)
    (h : s.avail = 0 ∨ s.avail < (classOf w.b0).bytes) :
    (decodeWindow o pol post w s).status = statusAfter s 0x48#8 ∧
      RegistersKeptButStatus s (decodeWindow o pol post w s) := by
  rcases decodeWindow_cases o pol post w s with ⟨_, e⟩ | ⟨_, _, e⟩ | ⟨_, h1, _, _⟩ | ⟨_, h1, _, _⟩
  · rw [e]
    exact ⟨State.raise_clear_status s _, State.raise_registers s _⟩
  · rw [e]
    exact ⟨State.raise_clear_status s _, State.raise_registers s _⟩
  · omega
  · omega

/-- A decode of a non-canonical encoding under ERROR: DecodeNonCanonical, and every register but STATUS as it
was (R92). -/
theorem decodeWindow_noncanonical (o : Byte0Order) (post : Word → Word) (w : Bytes5) (s : State) (h : 5 ≤ s.avail)
    (hn : Noncanonical o w) :
    (decodeWindow o .error post w s).status = statusAfter s 0x50#8 ∧
      RegistersKeptButStatus s (decodeWindow o .error post w s) := by
  have hb : (classOf w.b0).bytes ≤ 5 := (classOf w.b0).bytes_le_scratch.2
  have hc := (noncanon5_iff o w).2 hn
  rcases decodeWindow_cases o .error post w s with ⟨_, _⟩ | ⟨_, _, _⟩ | ⟨_, _, _, e⟩ | ⟨_, _, h1, _⟩
  · omega
  · omega
  · rw [e]
    exact ⟨State.raise_clear_status s _, State.raise_registers s _⟩
  · exact absurd ⟨hc.1, hc.2, rfl⟩ h1

/-- A decode that succeeds: the value, the count and STATUS (R90). -/
theorem decodeWindow_success (o : Byte0Order) (pol : Noncanon5Policy) (post : Word → Word) (w : Bytes5) (s : State)
    (h : (classOf w.b0).bytes ≤ s.avail) (hn : ¬ (Noncanonical o w ∧ pol = .error)) :
    (decodeWindow o pol post w s).outValue = post (val o (classOf w.b0) w) ∧
      (decodeWindow o pol post w s).outConsumed = (classOf w.b0).count ∧
      (decodeWindow o pol post w s).status = statusAfter s 0x06#8 := by
  have hb := (classOf w.b0).bytes_le_scratch.1
  rcases decodeWindow_cases o pol post w s with ⟨_, _⟩ | ⟨_, _, _⟩ | ⟨_, _, h1, _⟩ | ⟨_, _, _, e⟩
  · omega
  · omega
  · exact absurd ⟨(noncanon5_iff o w).1 ⟨h1.1, h1.2.1⟩, h1.2.2⟩ hn
  · rw [e]
    exact ⟨by simp, by simp, by simp [statusAfter, StatusFlag.bit, BitVec.or_assoc]⟩

/-- The decoder's effect reads byte 0 if there is one, and the other bytes of the class if all are available (R90,
R94, R23). -/
theorem decodeWindow_congr (o : Byte0Order) (pol : Noncanon5Policy) (post : Word → Word) {w w' : Bytes5} (s : State)
    (h0 : 0 < s.avail → w'.b0 = w.b0)
    (h : (classOf w.b0).bytes ≤ s.avail → ∀ k : Fin 5, k.val < (classOf w.b0).bytes → byteAt w' k = byteAt w k) :
    decodeWindow o pol post w' s = decodeWindow o pol post w s := by
  by_cases ha : s.avail = 0
  · simp only [decodeWindow, if_pos ha]
  have e0 : w'.b0 = w.b0 := h0 (by omega)
  by_cases h1 : s.avail < (classOf w.b0).bytes
  · simp only [decodeWindow, if_neg ha, e0, if_pos h1]
  have hk := h (by omega)
  by_cases h5 : classOf w.b0 = .five
  · have : w' = w := Bytes5.ext_byteAt fun k => hk k (by rw [h5]; exact k.isLt)
    rw [this]
  · simp only [decodeWindow, if_neg ha, e0, if_neg h1, h5, false_and, if_false, val_congr o _ hk]

/-- An encode command whose IN_VALUE is written is the encoder's effect for what it holds. -/
theorem encodeCommand_ready (o : Byte0Order) (pre : Word → Word) {s : State} (h : s.inputWritten .inValue = true) :
    encodeCommand o pre s = encodeValue o (pre s.inValue) s := by
  rw [encodeCommand, State.useInputs_ready (by simpa using h), State.valueOperand_written h]

/-- A zigzag command whose IN_VALUE is written is the zigzag coder's effect for what it holds. -/
theorem zigzagCommand_ready (f : Word → Word) {s : State} (h : s.inputWritten .inValue = true) :
    zigzagCommand f s = zigzagValue (f s.inValue) s := by
  rw [zigzagCommand, State.useInputs_ready (by simpa using h), State.valueOperand_written h]

/-- A decode command with each window byte it reads written is the decoder's effect for the window as it is. -/
theorem decodeCommand_ready (o : Byte0Order) (pol : Noncanon5Policy) (post : Word → Word) {s : State}
    (h : ∀ k : Fin 5, k.val < windowBytesRead s → s.inputWritten (.inB k) = true) :
    decodeCommand o pol post s = decodeWindow o pol post s.inB s := by
  rw [decodeCommand, State.useInputs_ready ((decodeInputs_ready s).2 h)]
  refine decodeWindow_congr o pol post s (fun h0 => ?_) (fun hle k hk => ?_)
  · exact State.byteOperand_written (h 0 (windowBytesRead_pos s h0))
  · rw [State.byteAt_windowOperand]
    refine State.byteOperand_written (h k ?_)
    rw [classOf_bytes] at hk hle
    rw [State.avail_eq] at hle
    rw [windowBytesRead, if_pos hle]
    exact hk

/-- What no command changes, and that every command answers a next state. -/
theorem exec_frame (i : Instr) (s : State) : ∃ t, exec i s = .next t ∧ CommandFrame s t := by
  cases i
  · exact ⟨_, rfl, (encodeCommand_spec _ _ s).1⟩
  · exact ⟨_, rfl, (encodeCommand_spec _ _ s).1⟩
  · exact ⟨_, rfl, (s.useInputs_frame _).trans (decodeWindow_frame _ _ _ _ _).1⟩
  · exact ⟨_, rfl, (s.useInputs_frame _).trans (decodeWindow_frame _ _ _ _ _).1⟩
  · exact ⟨_, rfl, (zigzagCommand_spec _ s).1⟩
  · exact ⟨_, rfl, (zigzagCommand_spec _ s).1⟩

end Sys2Proof.Machine
end

