-- ==== Sys2Proof/Laws/PerInstr.lean ====
section
/-! SUPPORT. Facts about each command as syntax: its word is one byte with RSV = 0 and the command's own OP. -/

namespace Sys2Proof

/-- The fields of a command's word (R68, R70). -/
def Laws.CommandWord.Statement (i : Instr) : Prop :=
  i.wf = true ∧ rsvField (encodeByte i) = 0#5 ∧ opField (encodeByte i) = opOf i ∧ (encode i).length = 1

theorem Laws.CommandWord.encu : Laws.CommandWord.Statement .encu := ⟨rfl, rfl, rfl, rfl⟩

theorem Laws.CommandWord.encs : Laws.CommandWord.Statement .encs := ⟨rfl, rfl, rfl, rfl⟩

theorem Laws.CommandWord.decu : Laws.CommandWord.Statement .decu := ⟨rfl, rfl, rfl, rfl⟩

theorem Laws.CommandWord.decs : Laws.CommandWord.Statement .decs := ⟨rfl, rfl, rfl, rfl⟩

theorem Laws.CommandWord.zz : Laws.CommandWord.Statement .zz := ⟨rfl, rfl, rfl, rfl⟩

theorem Laws.CommandWord.unzz : Laws.CommandWord.Statement .unzz := ⟨rfl, rfl, rfl, rfl⟩

end Sys2Proof
end

