-- ==== Sys2Proof/Laws/Step.lean ====
section
/-! SUPPORT. What a step can do, said once: the equation of each kind of event, and the inversion of a step that
answers a next state. -/

namespace Sys2Proof.Machine

/-- A register has the number it is found under, and no other (R21). -/
theorem regOfNumber_numberOfReg (r : Reg) : regOfNumber (numberOfReg r) = some r := by
  cases r with
  | inB k => fin_cases k <;> rfl
  | outB k => fin_cases k <;> rfl
  | _ => rfl

/-- There is a register for each number below 17 and for no other (R21, R22 c). -/
theorem regOfNumber_isSome (n : Nat) : (regOfNumber n).isSome = true ↔ n < 17 := by
  constructor
  · intro h
    by_contra hn
    have : ∃ m, n = m + 17 := ⟨n - 17, by omega⟩
    obtain ⟨m, rfl⟩ := this
    simp [regOfNumber] at h
  · intro h
    interval_cases n <;> rfl

/-- A step with no access to come changes nothing (R123). -/
theorem step_idle {s : State} (h : s.pending = []) : step s = .next s := by
  simp [step, performNext, h]

/-- A step performs the next event, in the state without it. -/
theorem step_event {s : State} {e : HostEvent} {rest : List HostEvent} (h : s.pending = e :: rest) :
    step s = performEvent e (s.withPending rest) := by
  simp [step, performNext, h]

/-- Every way a host write of a register can answer a next state. -/
theorem writeReg_cases {r : Reg} {v : Word} {s t : State} (h : writeReg r v s = .next t) :
    (∃ i, r = .cmd ∧ decodeByte (v.setWidth 8) = .ok i ∧ exec i (s.storeCmd (v.setWidth 8)) = .next t) ∨
    (∃ x, r = .cmd ∧ decodeByte (v.setWidth 8) = .error x ∧
      t = (s.storeCmd (v.setWidth 8)).clearCommandStatus.raise .illegalCommand) ∨
    (r = .inValue ∧ t = s.writeInValue v) ∨
    (∃ k, r = .inB k ∧ t = s.writeInB k (v.setWidth 8)) ∨
    (r = .inAvail ∧ t = s.writeInAvail (v.setWidth 3)) ∨
    (hostWritable r = false ∧ t = s) := by
  cases r with
  | cmd =>
    simp only [writeReg, issueCommand] at h
    split at h
    · next i hi => exact .inl ⟨i, rfl, hi, h⟩
    · next x hx =>
      cases h
      exact .inr (.inl ⟨x, rfl, hx, rfl⟩)
  | inValue =>
    cases h
    exact .inr (.inr (.inl ⟨rfl, rfl⟩))
  | inB k =>
    cases h
    exact .inr (.inr (.inr (.inl ⟨k, rfl, rfl⟩)))
  | inAvail =>
    cases h
    exact .inr (.inr (.inr (.inr (.inl ⟨rfl, rfl⟩))))
  | _ =>
    cases h
    exact .inr (.inr (.inr (.inr (.inr ⟨rfl, rfl⟩))))

/-- A host read that answers a next state: the register may be read, and its content goes to the host. -/
theorem readReg_next {r : Reg} {s t : State} (h : readReg r s = .next t) :
    s.readFault r = none ∧ t = (s.useInputs [r]).pushRead ⟨r, s.content r⟩ := by
  unfold readReg at h
  split at h
  · cases h
  · next hf =>
    cases h
    exact ⟨hf, rfl⟩

/-- Every way a step can answer a next state. -/
theorem step_cases {s t : State} (h : step s = .next t) :
    (s.pending = [] ∧ t = s) ∨
    (∃ n v r rest, s.pending = .write n v :: rest ∧ regOfNumber n = some r ∧
      writeReg r v (s.withPending rest) = .next t) ∨
    (∃ n r rest, s.pending = .read n :: rest ∧ regOfNumber n = some r ∧
      readReg r (s.withPending rest) = .next t) ∨
    (∃ rest, s.pending = .reset :: rest ∧ t = (s.withPending rest).resetBlock) := by
  cases hp : s.pending with
  | nil =>
    rw [step_idle hp] at h
    cases h
    exact .inl ⟨rfl, rfl⟩
  | cons e rest =>
    rw [step_event hp] at h
    cases e with
    | write n v =>
      simp only [performEvent] at h
      split at h
      · next r hr => exact .inr (.inl ⟨n, v, r, rest, rfl, hr, h⟩)
      · cases h
    | read n =>
      simp only [performEvent] at h
      split at h
      · next r hr => exact .inr (.inr (.inl ⟨n, r, rest, rfl, hr, h⟩))
      · cases h
    | reset =>
      cases h
      exact .inr (.inr (.inr ⟨rest, rfl, rfl⟩))
    | secondHost => cases h

/-- Everything a step of one of several instances can answer that is no refusal (R122). -/
theorem stepInstance_next {n : Nat} {k : Fin n} {blocks after : Vector State n}
    (h : stepInstance k blocks = .next after) :
    (∃ s, step blocks[k] = .next s ∧ after = blocks.set k s) ∨
    ∃ f, step blocks[k] = .fault f ∧ after = blocks.set k (blocks[k].recordModelFault (.stopped f)) := by
  unfold stepInstance at h
  split at h
  · next s hs =>
    cases h
    exact .inl ⟨s, hs, rfl⟩
  · next f hs =>
    cases h
    exact .inr ⟨f, hs, rfl⟩
  · cases h

end Sys2Proof.Machine
end

