-- ==== Sys2Proof/Tests/Slice0.lean ====
section
/-! SUPPORT. Tests on small states, with expected results from spec/95_test_vectors.md and the rules, and for each
statement with hypotheses a concrete case that meets them. -/

namespace Sys2Proof.Tests

open Sys2Proof.Machine

/-- The next state of an outcome, if there is one. -/
def nextOf (o : Host.Outcome State Fault Refusal) : Option State :=
  match o with
  | .next s => some s
  | .fault _ => none
  | .refused _ => none

/-- The fault of an outcome, if there is one. -/
def faultOf (o : Host.Outcome State Fault Refusal) : Option Fault :=
  match o with
  | .fault f => some f
  | .next _ => none
  | .refused _ => none

/-- The refusal of an outcome, if there is one. -/
def refusalOf (o : Host.Outcome State Fault Refusal) : Option Refusal :=
  match o with
  | .refused r => some r
  | .next _ => none
  | .fault _ => none

/-- The state after reset with IN_VALUE written. -/
def valueState (v : Word) : State := State.reset.writeInValue v

/-- The state after reset with every input written, a window and IN_AVAIL set. -/
def windowState (b : Bytes5) (n : Count) : State :=
  { State.reset with inB := b, inAvail := n, written := ⟨true, true, true, true, true, true⟩ }

/-- What an encode leaves: OUT_B, OUT_LEN and STATUS. -/
def encoded (o : Host.Outcome State Fault Refusal) : Option (Bytes5 × Count × Byte) :=
  (nextOf o).map fun t => (t.outB, t.outLen, t.status)

/-- What a decode leaves: OUT_VALUE, OUT_CONSUMED and STATUS. -/
def decoded (s : State) : Word × Count × Byte := (s.outValue, s.outConsumed, s.status)

/-! ### Decoding, from the map of R70 written out bit by bit -/

theorem test_decode_encoder : decodeByte 0b00000001#8 = .ok .encu ∧ decodeByte 0b00000010#8 = .ok .encs := by
  exact ⟨rfl, rfl⟩

theorem test_decode_decoder : decodeByte 0b00000011#8 = .ok .decu ∧ decodeByte 0b00000100#8 = .ok .decs := by
  exact ⟨rfl, rfl⟩

theorem test_decode_zigzag : decodeByte 0b00000101#8 = .ok .zz ∧ decodeByte 0b00000110#8 = .ok .unzz := by
  exact ⟨rfl, rfl⟩

/-- R71: the illegal CMD values listed in 95_test_vectors.md section 5. -/
theorem test_decode_illegal :
    decodeByte 0x00#8 = .error (.reservedOp 0x00#8) ∧ decodeByte 0x07#8 = .error (.reservedOp 0x07#8) ∧
      decodeByte 0x08#8 = .error (.reservedBits 0x08#8) ∧ decodeByte 0x09#8 = .error (.reservedBits 0x09#8) ∧
      decodeByte 0x81#8 = .error (.reservedBits 0x81#8) ∧ decodeByte 0xFF#8 = .error (.reservedBits 0xFF#8) := by
  exact ⟨rfl, rfl, rfl, rfl, rfl, rfl⟩

theorem test_decode_no_byte : decode [] = .error .noByte := by rfl

theorem test_decodeTableWord :
    decodeTableWord 8 1 = some .encu ∧ decodeTableWord 8 6 = some .unzz ∧ decodeTableWord 8 7 = none := by
  decide

/-- The machine runs a command placed as the first event after reset. -/
theorem test_withFetchWord :
    (nextOf (step (State.reset.withFetchWord 8 5))).map (fun t => (t.cmd, t.status, t.pending)) =
      some (0x05#8, 0x02#8, []) := by
  decide

/-! ### Well-formedness refuses what it should -/

theorem test_wf_instr : Instr.wf .encu = true ∧ Instr.wf .unzz = true := by decide

theorem test_wf_register_number : registerNumberWf 16 = true ∧ registerNumberWf 17 = false := by decide

theorem test_wf_write : hostEventWf (.write 16 0#32) = true ∧ hostEventWf (.write 17 0#32) = false := by decide

theorem test_wf_read : hostEventWf (.read 0) = true ∧ hostEventWf (.read 17) = false := by decide

theorem test_wf_second_host : hostEventWf .reset = true ∧ hostEventWf .secondHost = false := by decide

theorem test_wf_window_bytes : windowBytesWf [] = false ∧ windowBytesWf [1, 2, 3, 4, 5] = true ∧
    windowBytesWf [1, 2, 3, 4, 5, 6] = false := by decide

/-! ### The commands, at most two theorems each -/

/-- E5 and E7: the source's example, and the order of bytes 1 and 2; stale bytes stay 0. -/
theorem test_encu_300_and_class3 :
    encoded (exec .encu (valueState 300#32)) = some (⟨0x81#8, 0x2C#8, 0#8, 0#8, 0#8⟩, 2#3, 0x01#8) ∧
    encoded (exec .encu (valueState 0x4000#32)) = some (⟨0xC0#8, 0x00#8, 0x40#8, 0#8, 0#8⟩, 3#3, 0x01#8) := by
  decide

/-- E11, E12, E13 and E14: classes 4 and 5 and their boundary. -/
theorem test_encu_class4_class5 :
    encoded (exec .encu (valueState 0x0ABCDEF1#32)) = some (⟨0xEA#8, 0xF1#8, 0xDE#8, 0xBC#8, 0#8⟩, 4#3, 0x01#8) ∧
    encoded (exec .encu (valueState 0x10000000#32)) = some (⟨0xF0#8, 0#8, 0#8, 0#8, 0x10#8⟩, 5#3, 0x01#8) ∧
    encoded (exec .encu (valueState 0x12345678#32)) =
      some (⟨0xF0#8, 0x78#8, 0x56#8, 0x34#8, 0x12#8⟩, 5#3, 0x01#8) := by
  decide

/-- S-6 and S-8: the end of the 1-byte range below zero. -/
theorem test_encs_one_byte_range :
    encoded (exec .encs (valueState 0xFFFFFFC0#32)) = some (⟨0x7F#8, 0#8, 0#8, 0#8, 0#8⟩, 1#3, 0x01#8) ∧
    encoded (exec .encs (valueState 0xFFFFFFBF#32)) = some (⟨0x80#8, 0x81#8, 0#8, 0#8, 0#8⟩, 2#3, 0x01#8) := by
  decide

/-- S-11 and S-13. -/
theorem test_encs_negative :
    encoded (exec .encs (valueState 0xFFF0BDC0#32)) = some (⟨0xDE#8, 0x7F#8, 0x84#8, 0#8, 0#8⟩, 3#3, 0x01#8) ∧
    encoded (exec .encs (valueState 0x80000000#32)) =
      some (⟨0xF0#8, 0xFF#8, 0xFF#8, 0xFF#8, 0xFF#8⟩, 5#3, 0x01#8) := by
  decide

/-- D-4, D-13, D-18 and D-19: values, an overlong encoding, and IN_AVAIL = 7. -/
theorem test_decu_values :
    (nextOf (exec .decu (windowState ⟨0x81#8, 0x2C#8, 0#8, 0#8, 0#8⟩ 2#3))).map decoded = some (300#32, 2#3, 0x06#8) ∧
    (nextOf (exec .decu (windowState ⟨0x80#8, 0x05#8, 0#8, 0#8, 0#8⟩ 2#3))).map decoded = some (5#32, 2#3, 0x06#8) ∧
    (nextOf (exec .decu (windowState ⟨0x05#8, 1#8, 2#8, 3#8, 4#8⟩ 7#3))).map decoded = some (5#32, 1#3, 0x06#8) ∧
    (nextOf (exec .decu (windowState ⟨0xF0#8, 1#8, 2#8, 3#8, 0#8⟩ 7#3))).map decoded =
      some (0x00030201#32, 5#3, 0x06#8) := by
  decide

/-- D-20, D-22, D-23 and D-29: short windows, the last with non-canonical bits under ERROR. -/
theorem test_decu_short :
    (nextOf (exec .decu (windowState ⟨0x81#8, 0#8, 0#8, 0#8, 0#8⟩ 1#3))).map (·.status) = some 0x48#8 ∧
    (nextOf (exec .decu (windowState ⟨0xF0#8, 1#8, 2#8, 3#8, 0#8⟩ 4#3))).map (·.status) = some 0x48#8 ∧
    (nextOf (exec .decu State.reset)).map (·.status) = some 0x48#8 ∧
    (decodeCommand .high .error id (windowState ⟨0xF8#8, 1#8, 0#8, 0#8, 0#8⟩ 3#3)).status = 0x48#8 := by
  decide

/-- DS-4 and DS-9. -/
theorem test_decs_values :
    (nextOf (exec .decs (windowState ⟨0x03#8, 0#8, 0#8, 0#8, 0#8⟩ 1#3))).map decoded =
      some (0xFFFFFFFE#32, 1#3, 0x06#8) ∧
    (nextOf (exec .decs (windowState ⟨0xF0#8, 0xFF#8, 0xFF#8, 0xFF#8, 0xFF#8⟩ 5#3))).map decoded =
      some (0x80000000#32, 5#3, 0x06#8) := by
  decide

/-- D-24 to D-28, and the two LOW rows after the table: the policy, as an argument. -/
theorem test_decode_noncanonical_policy :
    decoded (decodeCommand .high .ignore id (windowState ⟨0xF7#8, 0#8, 0#8, 0#8, 0#8⟩ 5#3)) = (0#32, 5#3, 0x06#8) ∧
    (decodeCommand .high .error id (windowState ⟨0xF7#8, 0#8, 0#8, 0#8, 0#8⟩ 5#3)).status = 0x50#8 ∧
    decoded (decodeCommand .high .ignore id (windowState ⟨0xF8#8, 1#8, 0#8, 0#8, 0#8⟩ 5#3)) = (1#32, 5#3, 0x06#8) ∧
    (decodeCommand .low .error id (windowState ⟨0xF8#8, 0#8, 0#8, 0#8, 0#8⟩ 5#3)).status = 0x50#8 ∧
    (decodeCommand .low .error id (windowState ⟨0xF0#8, 0#8, 0#8, 0#8, 0x20#8⟩ 5#3)).status = 0x50#8 ∧
    (decodeCommand .low .error id (windowState ⟨0xF7#8, 0xFF#8, 0xFF#8, 0xFF#8, 0x1F#8⟩ 5#3)).outValue =
      0xFFFFFFFF#32 := by
  decide

/-- EL2, EL5, EL9: the LOW layout. -/
theorem test_low_layout :
    encLow 300#32 = [0xAC#8, 0x04#8] ∧ encLow 0x00123456#32 = [0xD6#8, 0xA2#8, 0x91#8] ∧
      encLow 0x12345678#32 = [0xF0#8, 0xCF#8, 0x8A#8, 0x46#8, 0x02#8] := by
  decide

/-- Z-2, Z-5 and Z-6. -/
theorem test_zz :
    (nextOf (exec .zz (valueState 0xFFFFFFFF#32))).map (fun t => (t.outValue, t.status)) = some (1#32, 0x02#8) ∧
    (nextOf (exec .zz (valueState 0x7FFFFFFF#32))).map (·.outValue) = some 0xFFFFFFFE#32 ∧
    (nextOf (exec .zz (valueState 0x80000000#32))).map (·.outValue) = some 0xFFFFFFFF#32 := by
  decide

/-- U-4 and U-7: a logical shift. -/
theorem test_unzz :
    (nextOf (exec .unzz (valueState 3#32))).map (fun t => (t.outValue, t.status)) = some (0xFFFFFFFE#32, 0x02#8) ∧
    (nextOf (exec .unzz (valueState 0xFFFFFFFF#32))).map (·.outValue) = some 0x80000000#32 := by
  decide

/-- Section 5's command-word vectors: EILL and STICKY, and CMD keeps the value. -/
theorem test_illegal_command :
    (nextOf (step (State.reset.withFetchWord 8 0x81))).map (fun t => (t.cmd, t.status)) = some (0x81#8, 0x60#8) ∧
    (nextOf (step (State.reset.withFetchWord 8 0x00))).map (fun t => (t.cmd, t.status)) = some (0x00#8, 0x60#8) := by
  decide

/-- The state after reset with IN_B0 = 0x81, of a two-byte encoding, and IN_AVAIL written. -/
def oneByteWritten (n : Count) : State := (State.reset.writeInB 0 0x81#8).writeInAvail n

/-- What an outcome that answers a next state records. -/
def recorded (o : Host.Outcome State Fault Refusal) : Option (Option ModelFault) := (nextOf o).map (·.modelFault)

/-- R116 c, R131: commands straight after reset that read IN_VALUE, a decode of an unwritten byte 0, and a short one
that reads byte 0 alone. -/
theorem test_unwritten_inputs :
    recorded (exec .encu State.reset) = some (some (.unwrittenInput .inValue)) ∧
    recorded (exec .unzz State.reset) = some (some (.unwrittenInput .inValue)) ∧
    (exec .decs (oneByteWritten 1#3) = .next (oneByteWritten 1#3 |>.clearCommandStatus.raise .decodeShort)) ∧
    recorded (exec .decs (oneByteWritten 1#3)) = some none := by
  exact ⟨rfl, rfl, rfl, rfl⟩

/-- The operands of a two-byte window whose byte 1 is unwritten: the first unwritten input is IN_B1. -/
theorem test_unwritten_byte :
    (oneByteWritten 2#3).firstUnwritten (decodeInputs (oneByteWritten 2#3)) = some (.inB 1) := by
  rfl

/-- R125, program P2: five bytes presented from offset 2, and the last byte alone. -/
theorem test_presentWindow :
    presentWindow [0x81#8, 0x2C#8, 0x02#8, 0x68#8, 0x69#8, 0x05#8, 0x00#8] 2 =
      [.write 3 0x02#32, .write 4 0x68#32, .write 5 0x69#32, .write 6 0x05#32, .write 7 0x00#32, .write 8 5#32] ∧
    presentWindow [0x81#8, 0x2C#8] 1 = [.write 3 0x2C#32, .write 8 1#32] := by
  decide

/-! ### A case that meets the hypotheses of each statement that has some -/

/-- A state whose next event is e. -/
def facing (e : HostEvent) (s : State) : State := { s with pending := [e] }

theorem witness_ResetEventRestoresStatedValues : (facing .reset (valueState 7#32)).pending = .reset :: [] := by decide

theorem witness_StickyClearedOnlyByReset :
    (nextOf (step (facing .reset { State.reset with status := 0x48#8 }))).map (·.flag .sticky) = some false ∧
      (facing .reset { State.reset with status := 0x48#8 }).flag .sticky = true := by decide

theorem witness_StepRunsDecodedCommand :
    (facing (.write 0 0x103#32) State.reset).pending = .write 0 0x103#32 :: [] ∧
      decodeByte ((0x103#32).setWidth 8) = .ok .decu := by exact ⟨rfl, rfl⟩

theorem witness_IllegalCommandEffect :
    (facing (.write 0 7#32) State.reset).pending = .write 0 7#32 :: [] ∧ (0#32).toNat % 256 = 0 ∧
      (0x100#32).toNat % 256 = 0 ∧ 7 ≤ (7#32).toNat % 256 ∧ 7 ≤ (0xFF#32).toNat % 256 := by decide

theorem witness_IdleStepKeepsState : (valueState 7#32).pending = [] := by decide

theorem witness_CommandIssueClearsStatus :
    (facing (.write 0 0xFF#32) { State.reset with status := 0xFF#8 }).pending = .write 0 0xFF#32 :: [] ∧
      (nextOf (step (facing (.write 0 0xFF#32) State.reset))).map (·.flag .eill) = some true ∧
      (nextOf (step (facing (.write 0 0x02#32) (valueState 1#32)))).map (·.status) = some 0x01#8 := by decide

theorem witness_EncoderReadsOnlyInValue :
    (windowState ⟨1#8, 2#8, 3#8, 4#8, 5#8⟩ 5#3).inputWritten .inValue = true ∧
      (valueState 0#32).inputWritten .inValue = true ∧ (windowState ⟨1#8, 2#8, 3#8, 4#8, 5#8⟩ 5#3).inValue = (valueState 0#32).inValue := by decide

theorem witness_EncoderOutputMinimal :
    val .high .five ⟨0xF0#8, 5#8, 0#8, 0#8, 0#8⟩ = (valueState 5#32).inValue ∧
      (nextOf (exec .encu (valueState 0x10000000#32))).map (·.outLen.toNat) = some 5 := by decide

theorem witness_StaleOutputBytes :
    (facing (.read (9 + (4 : Fin 5).val)) { State.reset with outLen := 4#3, status := 0x01#8 }).pending =
      .read (9 + (4 : Fin 5).val) :: [] ∧ (4#3).toNat ≤ (4 : Fin 5).val := by decide

theorem witness_SixteenBitValue :
    (valueState 0xFFFF#32).inputWritten .inValue = true ∧ (valueState 0xFFFF#32).inValue = (0xFFFF#16).setWidth 32 := by
  decide

/-- For EncuLengthByRange, EncuWritesHighBytes, EncsWritesZigzagBytes, ZzComputesZigzag, UnzzComputesInverseZigzag and
LowLayoutBytes, whose one hypothesis is a written IN_VALUE: the ends of its range. -/
theorem witness_IN_VALUE_written :
    (valueState 0#32).inputWritten .inValue = true ∧ (valueState 0xFFFFFFFF#32).inputWritten .inValue = true := by
  decide

/-- For DecoderFrame, EncoderFrame and ZigzagFrame. -/
theorem witness_Frames : (Instr.decs = .decu ∨ Instr.decs = .decs) ∧ (Instr.encs = .encu ∨ Instr.encs = .encs) ∧
    (Instr.unzz = .zz ∨ Instr.unzz = .unzz) := by decide

theorem witness_DecuDecodesWindow :
    (∀ k : Fin 5, (windowState ⟨0xF0#8, 1#8, 2#8, 3#8, 4#8⟩ 5#3).inputWritten (.inB k) = true) ∧
      lengthOfByte0 (0xF0#8).toNat ≤ min (5#3).toNat 5 ∧ (0xF0#8).toNat ≤ 0xF0 ∧
      lengthOfByte0 (0x7F#8).toNat ≤ min (1#3).toNat 5 := by decide

theorem witness_DecodeNoncanonicalWindow :
    5 ≤ (5#3).toNat ∧ 0xF0 < (0xF1#8).toNat ∧ 5 ≤ (7#3).toNat ∧ 0xF0 < (0xFF#8).toNat ∧
      ∀ k : Fin 5, (windowState ⟨0xF1#8, 0#8, 0#8, 0#8, 0#8⟩ 5#3).inputWritten (.inB k) = true := by decide

theorem witness_NoncanonicalPolicyDecides :
    Noncanonical .high ⟨0xF1#8, 0#8, 0#8, 0#8, 0#8⟩ ∧ Noncanonical .low ⟨0xF8#8, 0#8, 0#8, 0#8, 0#8⟩ ∧
      Noncanonical .low ⟨0xF0#8, 0#8, 0#8, 0#8, 0x20#8⟩ ∧ ¬ Noncanonical .high ⟨0xF0#8, 0#8, 0#8, 0#8, 0xFF#8⟩ ∧
      ¬ Noncanonical .low ⟨0xF7#8, 0#8, 0#8, 0#8, 0x1F#8⟩ ∧ (enc .high 0x10000000#32).length = 5 ∧
      (enc .low 0xFFFFFFFF#32).length = 5 := by
  refine ⟨⟨by decide, by decide⟩, ⟨by decide, .inl (by decide)⟩, ⟨by decide, .inr (by decide)⟩, fun h => h.2 (by decide), fun h => ?_, by decide, by decide⟩
  rcases h.2 with h | h <;> revert h <;> decide

theorem witness_DecoderRaisesShort :
    (State.reset.inAvail.toNat = 0) ∧ (oneByteWritten 1#3).inputWritten (.inB 0) = true ∧ min (4#3).toNat 5 < lengthOfByte0 (0xF0#8).toNat ∧
      min (1#3).toNat 5 < lengthOfByte0 (0x80#8).toNat := by decide

theorem witness_DecoderReadsOnlyTheEncoding :
    commandReady .decs (windowState ⟨0x05#8, 0#8, 0#8, 0#8, 0#8⟩ 5#3) = true ∧ ∀ k : Fin 5, k.val < lengthOfByte0 (0x05#8).toNat → k.val < (5#3).toNat →
      byteAt ⟨0x05#8, 9#8, 9#8, 9#8, 9#8⟩ k = byteAt ⟨0x05#8, 0#8, 0#8, 0#8, 0#8⟩ k := by decide

theorem witness_AvailabilitySaturatesAtFive :
    5 ≤ (5#3).toNat ∧ 5 ≤ (7#3).toNat ∧
      ∀ k : Fin 5, k.val < min (4#3).toNat 5 →
        byteAt ⟨0xE0#8, 1#8, 2#8, 3#8, 9#8⟩ k = byteAt ⟨0xE0#8, 1#8, 2#8, 3#8, 4#8⟩ k := by decide

theorem witness_OverlongEncodingsAccepted :
    (lenOf 5#32).bytes ≤ LenClass.two.bytes ∧ (lenOf 0xFFFFFFFF#32).bytes ≤ LenClass.five.bytes ∧
      LenClass.five.bytes ≤ (windowState ⟨0xF0#8, 5#8, 0#8, 0#8, 0#8⟩ 5#3).inAvail.toNat ∧
      ∀ k : Fin 5, (windowState ⟨0xF0#8, 5#8, 0#8, 0#8, 0#8⟩ 5#3).inputWritten (.inB k) = true := by decide

theorem witness_ErrorPriority :
    (facing (.write 0 0x04#32) (windowState ⟨0xF1#8, 0#8, 0#8, 0#8, 0#8⟩ 4#3)).pending = .write 0 0x04#32 :: [] ∧
      (0x04#32).toNat % 256 = 4 ∧ (0x103#32).toNat % 256 = 3 ∧ 7 ≤ (0x0B#32).toNat % 256 ∧
      (0x106#32).toNat % 256 = 6 ∧ commandReady .decu (windowState ⟨0xF1#8, 0#8, 0#8, 0#8, 0#8⟩ 4#3) = true := by
  decide

theorem witness_ErrorLeavesRegisters :
    (nextOf (step (facing (.write 0 0x03#32) State.reset))).map
      (fun t => t.flag .eshort || t.flag .enoncanon || t.flag .eill) = some true := by decide

/-- The window holds what ENCU of 300 wrote, and ENCS of −150, and is written. -/
theorem witness_VarintRoundTrip :
    (valueState 300#32).inputWritten .inValue = true ∧
      (windowState ⟨0x81#8, 0x2C#8, 9#8, 9#8, 9#8⟩ 2#3).inAvail = (encodeCommand .high id (valueState 300#32)).outLen ∧
      (∀ k : Fin 5, k.val < (encodeCommand .high id (valueState 300#32)).outLen.toNat →
        byteAt ⟨0x81#8, 0x2C#8, 9#8, 9#8, 9#8⟩ k = byteAt (encodeCommand .high id (valueState 300#32)).outB k ∧
          (windowState ⟨0x81#8, 0x2C#8, 9#8, 9#8, 9#8⟩ 2#3).inputWritten (.inB k) = true) ∧
      (windowState ⟨0x81#8, 0x2B#8, 9#8, 9#8, 9#8⟩ 2#3).inAvail =
        (encodeCommand .high zz (valueState 0xFFFFFF6A#32)).outLen ∧
      ∀ k : Fin 5, k.val < (encodeCommand .high zz (valueState 0xFFFFFF6A#32)).outLen.toNat →
        byteAt ⟨0x81#8, 0x2B#8, 9#8, 9#8, 9#8⟩ k =
          byteAt (encodeCommand .high zz (valueState 0xFFFFFF6A#32)).outB k := by
  decide

theorem witness_CommandRoundTrip :
    (nextOf (exec .encu (valueState 300#32))).map (fun t =>
      decide ((2#3) = t.outLen) && decide (∀ k : Fin 5, k.val < t.outLen.toNat →
        byteAt ⟨0x81#8, 0x2C#8, 9#8, 9#8, 9#8⟩ k = byteAt t.outB k)) = some true := by decide

theorem witness_ZigzagLaws :
    (-1 : Int).natAbs < (-2 : Int).natAbs ∧ (0xFFFFFFFF#32).toInt = -1 ∧ (0xFFFFFFFE#32).toInt = -2 ∧
      (0xFFFFFFFF#32).toInt < 0 ∧ (1#32).toInt = -(0xFFFFFFFF#32).toInt ∧
      (nextOf (exec .zz (valueState 0xFFFFFFFE#32))).isSome = true ∧
      (nextOf (exec .unzz (valueState 3#32))).isSome = true := by decide

theorem witness_LowLayoutValue :
    lengthOfByte0 (0xF7#8).toNat ≤ min (5#3).toNat 5 ∧
      ∀ k : Fin 5, (windowState ⟨0xF7#8, 0#8, 0#8, 0#8, 0#8⟩ 5#3).inputWritten (.inB k) = true := by decide

theorem witness_WriteInValueStores :
    (facing (.write 2 0xFFFFFFFF#32) State.reset).pending = .write 2 0xFFFFFFFF#32 :: [] := by decide

theorem witness_HostAccessOutsideTheTable :
    (facing (.write 1 5#32) State.reset).pending = .write 1 5#32 :: [] ∧ (9 ≤ 16 ∧ 16 ≤ 16) ∧
      (facing (.write (3 + (4 : Fin 5).val) 0x1FF#32) State.reset).pending = .write 7 0x1FF#32 :: [] ∧
      (facing (.write 8 0xF#32) State.reset).pending = .write 8 0xF#32 :: [] ∧
      (facing (.write 0 0x101#32) State.reset).pending = .write 0 0x101#32 :: [] ∧
      (facing (.read 17) State.reset).pending = .read 17 :: [] ∧ 17 ≤ 17 := by decide

theorem witness_HostReadsOfControlAndInputs :
    (facing (.read 7) (windowState ⟨1#8, 2#8, 3#8, 4#8, 5#8⟩ 5#3)).inputWritten (.inB 4) = true ∧
      (facing (.read 8) State.reset).pending = .read 8 :: [] ∧ 8 = 3 + 5 ∧ 7 = 3 + (4 : Fin 5).val := by decide

theorem witness_HostReadsOfValidOutputs :
    (facing (.read 13) { State.reset with status := 0x07#8, outLen := 5#3 }).pending = .read 13 :: [] ∧
      13 = 9 + (4 : Fin 5).val ∧ (4 : Fin 5).val < (5#3).toNat ∧
      ({ State.reset with status := 0x07#8, outLen := 5#3 } : State).flag .bv = true ∧
      ({ State.reset with status := 0x07#8, outLen := 5#3 } : State).flag .vv = true ∧
      ({ State.reset with status := 0x07#8, outLen := 5#3 } : State).flag .cv = true := by decide

theorem witness_InvalidOutputReadsFault :
    faultOf (step (facing (.read 9) State.reset)) = some (.invalidOutput (.outB 0)) ∧
      faultOf (step (facing (.read 14) State.reset)) = some (.invalidOutput .outLen) ∧
      State.reset.flag .vv = false ∧ State.reset.flag .cv = false := by decide

theorem witness_OnlyCommandWritesHaveSideEffects :
    (nextOf (step { State.reset with pending := [.read 1, .read 1] })).isSome = true ∧
      (nextOf (step (facing (.write 16 1#32) State.reset))).isSome = true ∧ (16 ≠ 0) := by decide

theorem witness_EventsTakenInOrder :
    (nextOf (step { State.reset with pending := [.read 1, .reset] })).map (·.pending) = some [.reset] := by decide

theorem witness_WellFormedEventsNotRefused :
    (facing (.read 16) State.reset).pending = .read 16 :: [] ∧ hostEventWf (.read 16) = true := by decide

theorem witness_SecondHostRefused :
    refusalOf (step (facing .secondHost State.reset)) = some .sharedBySecondHost := by decide

/-- Both clauses occur, a decode of no byte among the ready ones. -/
theorem witness_CommandRecordsModelFaultExactlyWhenInputUnwritten :
    commandReady .encu State.reset = false ∧ commandReady .encu (valueState 1#32) = true ∧
      commandReady .decu State.reset = true ∧ commandReady .decu (oneByteWritten 1#3) = true ∧
      commandReady .decu (oneByteWritten 2#3) = false := by decide

theorem witness_CommandsStraightAfterReset : State.reset.modelFault = none := by decide

theorem witness_UnwrittenInputReadsRecordModelFault :
    State.reset.inputWritten .inValue = false ∧ (oneByteWritten 5#3).inputWritten (.inB 4) = false ∧
      recorded (step (facing (.read 2) State.reset)) = some (some (.unwrittenInput .inValue)) ∧
      recorded (step (facing (.read 7) (oneByteWritten 5#3))) = some (some (.unwrittenInput (.inB 4))) ∧
      7 = 3 + (4 : Fin 5).val := by
  exact ⟨rfl, rfl, rfl, rfl, rfl⟩

/-- The reset event does not clear it, in one block or among two. -/
theorem witness_ModelFaultNeverCleared :
    recorded (step (facing .reset { State.reset with modelFault := some (.unwrittenInput .inValue) })) =
        some (some (.unwrittenInput .inValue)) ∧
      (match stepInstance (0 : Fin 2)
          #v[facing .reset { State.reset with modelFault := some (.unwrittenInput .inValue) }, valueState 5#32] with
        | .next bs => decide (bs[0].modelFault = some (.unwrittenInput .inValue))
        | .fault _ => false
        | .refused _ => false) = true := by decide

/-- Two different states that agree on all the spec determines, and one step of each kind of outcome. -/
theorem witness_UndeterminedContentNeverMatters :
    SameDetermined State.reset { State.reset with inValue := 7#32, outValue := 9#32, outLen := 3#3 } ∧
      (nextOf (step (facing (.write 0 0x03#32) State.reset))).isSome = true ∧
      faultOf (step (facing (.read 15) State.reset)) = some (.invalidOutput .outValue) ∧
      refusalOf (step (facing (.read 17) State.reset)) = some (.noSuchRegister 17) := by
  refine ⟨?_, by decide, by decide, by decide⟩
  constructor <;> decide

/-- A state that holds a result. -/
theorem witness_StepKeepsStatusInv :
    StatusInv (encodeCommand .high id ((valueState 300#32).storeCmd 0x01#8)) ∧
      (nextOf (step (encodeCommand .high id ((valueState 300#32).storeCmd 0x01#8)))).isSome = true := by
  refine ⟨?_, by decide⟩
  constructor <;> decide

/-- One instance steps, and one that faults is marked while the other is as it was. -/
theorem witness_InstancesIndependent :
    (match stepInstance (0 : Fin 2) #v[facing .reset State.reset, valueState 5#32] with
      | .next bs => decide (bs[1].inValue = 5#32 ∧ bs[0].pending = [])
      | .fault _ => false
      | .refused _ => false) = true ∧
    (match stepInstance (0 : Fin 2) #v[facing (.read 14) State.reset, valueState 5#32] with
      | .next bs => decide (bs[1] = valueState 5#32 ∧ bs[0].modelFault = some (.stopped (.invalidOutput .outLen)))
      | .fault _ => false
      | .refused _ => false) = true ∧ (1 : Fin 2) ≠ 0 := by
  decide

theorem witness_WindowLinesExpand :
    (1 ≤ [0x81#8].length ∧ [0x81#8].length ≤ 5) ∧ ([] : List Byte).length = 0 ∧
      5 < [0#8, 0#8, 0#8, 0#8, 0#8, 0#8].length := by decide

end Sys2Proof.Tests
end

