-- ==== Sys2Proof/Proofs/Instances.lean ====
section
/-! PROOF. The reasoning rules of a step of one of several blocks side by side, and their independence (R12, R122). -/

namespace Sys2Proof.Machine

/-- Where block k answers a next state, so does the step of k, with that state as k's own. -/
theorem stepInstance_of_next {n : Nat} {k : Fin n} {blocks : Vector State n} {s : State}
    (h : step blocks[k] = .next s) : stepInstance k blocks = .next (blocks.set k s) := by
  simp only [stepInstance, h]

/-- Where block k faults, the step of k answers, with the fault recorded in k
(notes/assumptions/20.md). -/
theorem stepInstance_of_fault {n : Nat} {k : Fin n} {blocks : Vector State n} {f : Fault}
    (h : step blocks[k] = .fault f) :
    stepInstance k blocks = .next (blocks.set k (blocks[k].recordModelFault (.stopped f))) := by
  simp only [stepInstance, h]

/-- A step of block k writes no other block. -/
theorem stepInstance_eq_set {n : Nat} {k : Fin n} {blocks after : Vector State n}
    (h : stepInstance k blocks = .next after) : ∃ s, after = blocks.set k s := by
  obtain ⟨s, -, hs⟩ | ⟨f, -, hf⟩ := stepInstance_next h
  · exact ⟨s, hs⟩
  · exact ⟨_, hf⟩

/-- A step of block k leaves every other block (R122). -/
theorem stepInstance_frame {n : Nat} {k j : Fin n} {blocks after : Vector State n}
    (h : stepInstance k blocks = .next after) (hjk : j ≠ k) : after[j] = blocks[j] := by
  obtain ⟨s, rfl⟩ := stepInstance_eq_set h
  exact Vector.getElem_set_ne k.isLt j.isLt (Fin.val_ne_of_ne hjk.symm)

/-- Settles O56: a step is a write of one block alone, of its new state or of its recorded fault. -/
theorem instancesIndependent : Obligations.InstancesIndependent := by
  intro n k blocks
  refine ⟨?others, ?next, ?fault⟩
  case others =>
    intro after h j hjk
    exact stepInstance_frame h hjk
  case next =>
    intro s h
    exact ⟨_, stepInstance_of_next h, Vector.getElem_set_self k.isLt⟩
  case fault =>
    intro f h
    exact ⟨_, stepInstance_of_fault h, Vector.getElem_set_self k.isLt⟩

end Sys2Proof.Machine
end

