-- ==== Sys2Proof/Proofs/HostPortAndStatus.lean ====
section
/-! PROOF. The host's accesses one by one, what a CMD write leaves in STATUS and in the outputs, and that content
the spec gives no value reaches nothing it determines (R20 to R27, R34, R116). -/

namespace Sys2Proof.Machine

/-! ### One event of the host -/

/-- A write event performs the write of the register with its number. -/
theorem step_write {s : State} {n : Nat} {r : Reg} {v : Word} {rest : List HostEvent}
    (h : s.pending = .write n v :: rest) (hr : regOfNumber n = some r) :
    step s = writeReg r v (s.withPending rest) := by
  simp only [step_event h, performEvent, hr]

/-- A read event performs the read of the register with its number. -/
theorem step_read {s : State} {n : Nat} {r : Reg} {rest : List HostEvent}
    (h : s.pending = .read n :: rest) (hr : regOfNumber n = some r) :
    step s = readReg r (s.withPending rest) := by
  simp only [step_event h, performEvent, hr]

/-- The numbers from 17 on name no register (R22 c). -/
theorem regOfNumber_eq_none {n : Nat} (h : 17 ≤ n) : regOfNumber n = none := by
  rw [← Option.not_isSome_iff_eq_none, regOfNumber_isSome]
  omega

/-- What the use of inputs does, as one update of the record (R116 c). -/
theorem State.useInputs_eq (s : State) (rs : List Reg) :
    s.useInputs rs = { s with modelFault := s.modelFault.or ((s.firstUnwritten rs).map .unwrittenInput) } := by
  unfold State.useInputs
  cases s.firstUnwritten rs with
  | none => simp
  | some r => rfl

/-- A read that R26 and R27 allow gives the content and records the use of an unwritten input. -/
theorem step_read_next {s : State} {n : Nat} {r : Reg} {rest : List HostEvent}
    (h : s.pending = .read n :: rest) (hr : regOfNumber n = some r) (hf : s.readFault r = none) :
    step s = .next { s with
      pending := rest, reads := s.reads ++ [⟨r, s.content r⟩],
      modelFault := s.modelFault.or ((s.firstUnwritten [r]).map .unwrittenInput) } := by
  have hf' : (s.withPending rest).readFault r = none := hf
  rw [step_read h hr]
  simp only [readReg, hf', State.useInputs_eq]
  rfl

/-- A read of a register that holds its content by right gives it and changes nothing else. -/
theorem step_read_written {s : State} {n : Nat} {r : Reg} {rest : List HostEvent}
    (h : s.pending = .read n :: rest) (hr : regOfNumber n = some r) (hf : s.readFault r = none)
    (hw : s.inputWritten r = true) :
    step s = .next { s with pending := rest, reads := s.reads ++ [⟨r, s.content r⟩] } := by
  rw [step_read_next h hr hf, (s.firstUnwritten_eq_none [r]).2 (by simpa using hw), Option.map_none, Option.or_none]

/-- A read of an input not written since reset records it (R34, R116 c). -/
theorem step_read_unwritten {s : State} {n : Nat} {r : Reg} {rest : List HostEvent}
    (h : s.pending = .read n :: rest) (hr : regOfNumber n = some r) (hf : s.readFault r = none)
    (hw : s.inputWritten r = false) :
    step s = .next { s with
      pending := rest, reads := s.reads ++ [⟨r, s.content r⟩],
      modelFault := s.modelFault.or (some (.unwrittenInput r)) } := by
  have hu : s.firstUnwritten [r] = some r := by simp [State.firstUnwritten, hw]
  rw [step_read_next h hr hf, hu, Option.map_some]

/-- A read that R26 or R27 forbids stops. -/
theorem step_read_fault {s : State} {n : Nat} {r : Reg} {rest : List HostEvent} {f : Fault}
    (h : s.pending = .read n :: rest) (hr : regOfNumber n = some r) (hf : s.readFault r = some f) :
    step s = .fault f := by
  have hf' : (s.withPending rest).readFault r = some f := hf
  simp only [step_read h hr, readReg, hf']

/-- A number that names a register is the register's own (R21). -/
theorem eq_numberOfReg {n : Nat} {r : Reg} (h : regOfNumber n = some r) : n = numberOfReg r := by
  have hn : n < 17 := (regOfNumber_isSome n).1 (by rw [h]; rfl)
  interval_cases n <;> cases h <;> rfl

/-- A write to a read-only register has no effect (R22 a). -/
theorem writeReg_readOnly {r : Reg} (h : hostWritable r = false) (v : Word) (s : State) :
    writeReg r v s = .next s := by
  cases r with
  | status => rfl
  | outB k => rfl
  | outLen => rfl
  | outValue => rfl
  | outConsumed => rfl
  | _ => cases h

/-- An error at issue changes nothing a command may not change (R112). -/
theorem State.raise_clear_frame (s : State) (e : ErrorCause) : CommandFrame s (s.clearCommandStatus.raise e) where
  cmd := rfl
  inValue := rfl
  inB := rfl
  inAvail := rfl
  written := rfl
  pending := rfl
  reads := rfl
  reserved := by rw [State.raise_reserved, State.clearCommandStatus_reserved]
  sticky := fun _ => by simp
  modelFault := fun _ => rfl
  resets := rfl

/-- A CMD write of any byte answers a next state, with the byte in CMD and the inputs and the host's side kept. -/
theorem issueCommand_next (c : Byte) (s : State) :
    ∃ t, issueCommand c s = .next t ∧ CommandFrame (s.storeCmd c) t := by
  unfold issueCommand
  split
  · next i _ => exact exec_frame i (s.storeCmd c)
  · exact ⟨_, rfl, State.raise_clear_frame _ _⟩

/-- A write of a register answers a next state. -/
theorem writeReg_next (r : Reg) (v : Word) (s : State) : ∃ t, writeReg r v s = .next t := by
  cases r with
  | cmd =>
    obtain ⟨t, ht, -⟩ := issueCommand_next (v.setWidth 8) s
    exact ⟨t, ht⟩
  | _ => exact ⟨_, rfl⟩

/-- The registers the host may only read have numbers 1 and 9 to 16 (R21). -/
theorem regOfNumber_readOnly {n : Nat} (h : n = 1 ∨ (9 ≤ n ∧ n ≤ 16)) :
    ∃ r, regOfNumber n = some r ∧ hostWritable r = false := by
  obtain rfl | ⟨h9, h16⟩ := h
  · exact ⟨_, rfl, rfl⟩
  · interval_cases n <;> exact ⟨_, rfl, rfl⟩

/-! ### Reset, idle and the host's accesses -/

/-- Settles O1: CMD, STATUS and IN_AVAIL are 0, no mark is set, and each valid bit is 0. -/
theorem resetHasStatedValues : Obligations.ResetHasStatedValues :=
  ⟨rfl, rfl, rfl, rfl, by decide, by decide, rfl, rfl, rfl⟩

/-- Settles O9: no event, no change. -/
theorem idleStepKeepsState : Obligations.IdleStepKeepsState :=
  fun _ h => step_idle h

/-- Settles O40: the write event is `State.writeInValue`. -/
theorem writeInValueStores : Obligations.WriteInValueStores :=
  fun _ _ _ h => ⟨_, step_write h (regOfNumber_numberOfReg .inValue), rfl, rfl, fun _ => rfl⟩

/-- Settles O43: the valid bit and OUT_LEN rule out each fault of the register. -/
theorem hostReadsOfValidOutputs : Obligations.HostReadsOfValidOutputs := by
  intro s n rest h
  refine ⟨?outB, ?outLen, ?outValue, ?outConsumed⟩
  case outB =>
    rintro k rfl hv hk
    exact step_read_written h (regOfNumber_numberOfReg (.outB k)) (by simp [State.readFault, hv, hk]) rfl
  case outLen =>
    rintro rfl hv
    exact step_read_written h (regOfNumber_numberOfReg .outLen) (by simp [State.readFault, hv]) rfl
  case outValue =>
    rintro rfl hv
    exact step_read_written h (regOfNumber_numberOfReg .outValue) (by simp [State.readFault, hv]) rfl
  case outConsumed =>
    rintro rfl hv
    exact step_read_written h (regOfNumber_numberOfReg .outConsumed) (by simp [State.readFault, hv]) rfl

/-- Settles O44: with the valid bit 0 the fault names the register. -/
theorem invalidOutputReadsFault : Obligations.InvalidOutputReadsFault := by
  intro s n rest h
  refine ⟨?outB, ?outLen, ?outValue, ?outConsumed⟩
  case outB =>
    rintro k rfl hv
    exact step_read_fault h (regOfNumber_numberOfReg (.outB k)) (if_pos hv)
  case outLen =>
    rintro rfl hv
    exact step_read_fault h (regOfNumber_numberOfReg .outLen) (if_pos hv)
  case outValue =>
    rintro rfl hv
    exact step_read_fault h (regOfNumber_numberOfReg .outValue) (if_pos hv)
  case outConsumed =>
    rintro rfl hv
    exact step_read_fault h (regOfNumber_numberOfReg .outConsumed) (if_pos hv)

/-- Settles O45: the host gets the input's free value, and the use is recorded. -/
theorem unwrittenInputReadsRecordModelFault : Obligations.UnwrittenInputReadsRecordModelFault := by
  intro s n rest h
  constructor
  · rintro rfl hw
    exact ⟨_, step_read_unwritten h (regOfNumber_numberOfReg .inValue) rfl hw⟩
  · rintro k rfl hw
    exact ⟨_, step_read_unwritten h (regOfNumber_numberOfReg (.inB k)) rfl hw⟩

/-- A read of STATUS gives its low 7 bits (R24). -/
theorem State.statusRead_toNat (s : State) : s.statusRead.toNat = s.status.toNat % 128 :=
  (BitVec.toNat_and ..).trans (Nat.and_two_pow_sub_one_eq_mod s.status.toNat 7)

/-- The registers numbered up to 8 are CMD, STATUS and the inputs, and a read of one never stops (R21, R26). -/
theorem State.readFault_eq_none_of_le {n : Nat} {r : Reg} (hr : regOfNumber n = some r) (hn : n ≤ 8) (s : State) :
    s.readFault r = none := by
  obtain rfl := eq_numberOfReg hr
  cases r with
  | outB k =>
    simp only [numberOfReg] at hn
    omega
  | outLen => exact absurd hn (by decide)
  | outValue => exact absurd hn (by decide)
  | outConsumed => exact absurd hn (by decide)
  | _ => rfl

/-- Settles O42: each register from CMD to IN_AVAIL reads as its content. -/
theorem hostReadsOfControlAndInputs : Obligations.HostReadsOfControlAndInputs := by
  intro s n rest h hn hValue hByte
  obtain ⟨r, hr⟩ := Option.isSome_iff_exists.1 ((regOfNumber_isSome n).2 (by omega))
  have hw : s.inputWritten r = true := by
    obtain rfl := eq_numberOfReg hr
    cases r with
    | inValue => exact hValue rfl
    | inB k => exact hByte k rfl
    | _ => rfl
  refine ⟨_, step_read_written h hr (s.readFault_eq_none_of_le hr hn) hw,
    ?readCmd, ?readStatus, ?readValue, ?readByte, ?readAvail⟩
  case readCmd =>
    rintro rfl
    cases hr
    exact BitVec.toNat_setWidth_of_le (by decide)
  case readStatus =>
    rintro rfl
    cases hr
    exact (BitVec.toNat_setWidth_of_le (by decide)).trans s.statusRead_toNat
  case readValue =>
    rintro rfl
    cases hr
    exact State.valueOperand_written hw
  case readByte =>
    rintro k rfl
    cases (regOfNumber_numberOfReg (.inB k)).symm.trans hr
    rw [← State.byteOperand_written hw]
    exact BitVec.toNat_setWidth_of_le (by decide)
  case readAvail =>
    rintro rfl
    cases hr
    exact BitVec.toNat_setWidth_of_le (by decide)

/-- A well-formed register number names a register (R21). -/
theorem exists_regOfNumber_of_wf {n : Nat} (h : registerNumberWf n = true) : ∃ r, regOfNumber n = some r :=
  Option.isSome_iff_exists.1 ((regOfNumber_isSome n).2 (of_decide_eq_true h))

/-- Settles O48: an event with a register number below 17 is a write or a read of that register. -/
theorem wellFormedEventsNotRefused : Obligations.WellFormedEventsNotRefused := by
  intro s e rest h hwf r hr
  cases e with
  | write n v =>
    obtain ⟨q, hq⟩ := exists_regOfNumber_of_wf hwf
    obtain ⟨t, ht⟩ := writeReg_next q v (s.withPending rest)
    rw [step_write h hq, ht] at hr
    cases hr
  | read n =>
    obtain ⟨q, hq⟩ := exists_regOfNumber_of_wf hwf
    cases hf : s.readFault q with
    | none =>
      rw [step_read_next h hq hf] at hr
      cases hr
    | some f =>
      rw [step_read_fault h hq hf] at hr
      cases hr
  | reset =>
    rw [step_event h] at hr
    cases hr
  | secondHost => cases hwf

/-- Settles O41: each write event is the write of its register, and no register has a number from 17 on. -/
theorem hostAccessOutsideTheTable : Obligations.HostAccessOutsideTheTable := by
  refine ⟨?readOnly, ?window, ?avail, ?command, ?unknown⟩
  case readOnly =>
    intro s n v rest h hn
    obtain ⟨r, hr, hro⟩ := regOfNumber_readOnly hn
    rw [step_write h hr, writeReg_readOnly hro]
    rfl
  case window =>
    intro s k v rest h
    refine ⟨_, step_write h (regOfNumber_numberOfReg (.inB k)), rfl, ?_, ?_, ?_, ?_, ?_⟩
    · simp [byteAt_setByteAt]
    · intro j hj
      simp [byteAt_setByteAt, hj]
    · simp [State.inputWritten, byteWritten_markByteWritten]
    · fin_cases k <;> rfl
    · intro j hj
      simp [State.inputWritten, byteWritten_markByteWritten, hj]
  case avail =>
    intro s v rest h
    exact ⟨_, step_write h (regOfNumber_numberOfReg .inAvail), rfl, by simp⟩
  case command =>
    intro s v rest h
    obtain ⟨t, ht, hframe⟩ := issueCommand_next (v.setWidth 8) (s.withPending rest)
    refine ⟨t, (step_write h rfl).trans ht, ?_, ?_⟩
    · rw [hframe.cmd]
      simp
    · have low : (BitVec.ofNat 32 (v.toNat % 256)).setWidth 8 = v.setWidth 8 :=
        BitVec.eq_of_toNat_eq (by simp)
      rw [step_write rfl rfl, writeReg, low]
      exact ht
  case unknown =>
    intro s n v rest h hn
    have hr := regOfNumber_eq_none hn
    obtain h | h := h <;> simp only [step_event h, performEvent, hr]

/-! ### Commands by their shared operations -/

/-- A fact about each shared operation with its arguments is one about each command's meaning. -/
theorem exec_shared {P : (State → State) → Prop} (encode : ∀ pre, P (encodeCommand Config.byte0Order pre))
    (decode : ∀ post, P (decodeCommand Config.byte0Order Config.noncanon5Policy post))
    (zigzag : ∀ f, P (zigzagCommand f)) (i : Instr) : ∃ f, (∀ s, exec i s = .next (f s)) ∧ P f := by
  cases i with
  | encu => exact ⟨_, fun _ => rfl, encode _⟩
  | encs => exact ⟨_, fun _ => rfl, encode _⟩
  | decu => exact ⟨_, fun _ => rfl, decode _⟩
  | decs => exact ⟨_, fun _ => rfl, decode _⟩
  | zz => exact ⟨_, fun _ => rfl, zigzag _⟩
  | unzz => exact ⟨_, fun _ => rfl, zigzag _⟩

/-! ### What a CMD write leaves in STATUS and the outputs -/

/-- The flags after a command: those it sets, and STICKY if it was set (R25). -/
theorem flag_of_statusAfter {s t : State} {b : Byte} (h : t.status = statusAfter s b) (f : StatusFlag) :
    t.flag f = ((decide (f = .sticky) && s.flag .sticky) || b.getLsbD f.bit) := by
  rw [← State.clearCommandStatus_flag, State.flag, h, statusAfter, BitVec.getLsbD_or]
  rfl

/-- STATUS[5:0] after a command: what it sets (R25). -/
theorem statusAfter_and_low (s : State) (b : Byte) : statusAfter s b &&& 0x3F#8 = b &&& 0x3F#8 := by
  have low : 0xC0#8 &&& 0x3F#8 = 0#8 := by decide
  rw [statusAfter, BitVec.and_or_distrib_right, BitVec.and_assoc, low, BitVec.and_zero, BitVec.zero_or]

/-- A byte decodes to the command whose word it is, and to none if it is 0x00 or at least 0x07 (R68, R70, R71). -/
theorem decodeByte_spec (c : Byte) :
    (∀ i ∈ (decodeByte c).toOption, c = encodeByte i) ∧
      ((decodeByte c).toOption = none → c = 0x00#8 ∨ 0x07#8 ≤ c) := by
  revert c
  decide

/-- The outcomes a CMD write of c can have, each with the STATUS bits and the results it leaves (R25, R80, R81, R90,
R92, R100, R101, R112). -/
inductive CommandResult (s : State) (c : Byte) (t : State) : Prop where
  | encoded (x : Word) (hc : c = 0x01#8 ∨ c = 0x02#8) (status : t.status = statusAfter s 0x01#8)
      (outB : t.outB = overwritePrefix (encHigh x) s.outB) (outLen : t.outLen = (lenOf x).count)
  | short (hc : c = 0x03#8 ∨ c = 0x04#8) (status : t.status = statusAfter s 0x48#8)
  | noncanonical (hc : c = 0x03#8 ∨ c = 0x04#8) (status : t.status = statusAfter s 0x50#8)
      (policy : Config.noncanon5Policy = .error)
  | decoded (n : LenClass) (hc : c = 0x03#8 ∨ c = 0x04#8) (status : t.status = statusAfter s 0x06#8)
      (outConsumed : t.outConsumed = n.count)
  | zigzagged (hc : c = 0x05#8 ∨ c = 0x06#8) (status : t.status = statusAfter s 0x02#8)
  | illegal (hc : c = 0x00#8 ∨ 0x07#8 ≤ c) (status : t.status = statusAfter s 0x60#8)

/-- An encode command has the first of the outcomes. -/
theorem encodeCommand_result (pre : Word → Word) {s : State} {c : Byte} (hc : c = 0x01#8 ∨ c = 0x02#8) :
    CommandResult s c (encodeCommand .high pre s) := by
  obtain ⟨-, -, status, outB, outLen, -⟩ := encodeCommand_spec .high pre s
  exact .encoded _ hc status outB outLen

/-- A zigzag command has one outcome. -/
theorem zigzagCommand_result (f : Word → Word) {s : State} {c : Byte} (hc : c = 0x05#8 ∨ c = 0x06#8) :
    CommandResult s c (zigzagCommand f s) := by
  obtain ⟨-, -, status, -⟩ := zigzagCommand_spec f s
  exact .zigzagged hc status

/-- The use of inputs does not show in STATUS after a command. -/
@[simp] theorem statusAfter_useInputs (s : State) (rs : List Reg) (b : Byte) :
    statusAfter (s.useInputs rs) b = statusAfter s b := by
  simp [statusAfter]

/-- STATUS after a decode that succeeds. -/
theorem decoded_status (s : State) (x : Word) (n : Count) :
    ((((s.clearCommandStatus.writeOutValue x).writeOutConsumed n).setFlag .vv).setFlag .cv).status =
      statusAfter s 0x06#8 := by
  simp [statusAfter, StatusFlag.bit, BitVec.or_assoc]

/-- A decode command is short, an error of the policy, or a success. -/
theorem decodeCommand_result (o : Byte0Order) (post : Word → Word) {s : State} {c : Byte}
    (hc : c = 0x03#8 ∨ c = 0x04#8) :
    CommandResult s c (decodeCommand o Config.noncanon5Policy post s) := by
  have raised := fun e => (s.useInputs (decodeInputs s)).raise_clear_status e
  simp only [statusAfter_useInputs] at raised
  unfold decodeCommand
  rcases decodeWindow_cases o Config.noncanon5Policy post s.windowOperand (s.useInputs (decodeInputs s)) with
    ⟨-, e⟩ | ⟨-, -, e⟩ | ⟨-, -, ⟨-, -, hp⟩, e⟩ | ⟨-, -, -, e⟩ <;> rw [e]
  · exact .short hc (raised .decodeShort)
  · exact .short hc (raised .decodeShort)
  · exact .noncanonical hc (raised .decodeNonCanonical) hp
  · exact .decoded (classOf s.windowOperand.b0) hc
      ((decoded_status _ _ _).trans (statusAfter_useInputs _ _ _)) rfl

/-- Each command has an outcome of its CMD word. -/
theorem exec_result (i : Instr) (s : State) :
    ∃ t, exec i s = .next t ∧ CommandResult s (encodeByte i) t := by
  cases i with
  | encu => exact ⟨_, rfl, encodeCommand_result id (.inl rfl)⟩
  | encs => exact ⟨_, rfl, encodeCommand_result Machine.zz (.inr rfl)⟩
  | decu => exact ⟨_, rfl, decodeCommand_result _ id (.inl rfl)⟩
  | decs => exact ⟨_, rfl, decodeCommand_result _ Machine.unzz (.inr rfl)⟩
  | zz => exact ⟨_, rfl, zigzagCommand_result Machine.zz (.inl rfl)⟩
  | unzz => exact ⟨_, rfl, zigzagCommand_result Machine.unzz (.inr rfl)⟩

/-- Each CMD write has an outcome of its byte. -/
theorem issueCommand_result {c : Byte} {s t : State} (h : issueCommand c s = .next t) :
    CommandResult (s.storeCmd c) c t := by
  obtain ⟨hok, hillegal⟩ := decodeByte_spec c
  unfold issueCommand at h
  split at h
  · next i hi =>
    obtain ⟨t', ht', hresult⟩ := exec_result i (s.storeCmd c)
    cases ht'.symm.trans h
    rwa [← hok i (by rw [hi]; rfl)] at hresult
  · next x hx =>
    cases h
    exact .illegal (hillegal (by rw [hx]; rfl)) (State.raise_clear_status _ .illegalCommand)

/-! ### The clear at issue -/

/-- Clearing twice is clearing once. -/
@[simp] theorem State.clearCommandStatus_clearCommandStatus (s : State) :
    s.clearCommandStatus.clearCommandStatus = s.clearCommandStatus := by
  simp only [State.clearCommandStatus, State.withStatus, BitVec.and_assoc, BitVec.and_self]

/-- The use of inputs and the clear at issue do not see each other. -/
theorem State.useInputs_clearCommandStatus (s : State) (rs : List Reg) :
    s.clearCommandStatus.useInputs rs = (s.useInputs rs).clearCommandStatus := by
  simp only [State.useInputs_eq]
  rfl

/-- The decoder's effect does not see STATUS[5:0]. -/
theorem decodeWindow_clearCommandStatus (o : Byte0Order) (pol : Noncanon5Policy) (post : Word → Word) (w : Bytes5)
    (s : State) : decodeWindow o pol post w s.clearCommandStatus = decodeWindow o pol post w s := by
  simp only [decodeWindow, State.clearCommandStatus_clearCommandStatus]
  rfl

/-- An encode does not see STATUS[5:0]. -/
theorem encodeCommand_clearCommandStatus (o : Byte0Order) (pre : Word → Word) (s : State) :
    encodeCommand o pre s.clearCommandStatus = encodeCommand o pre s := by
  rw [encodeCommand, State.useInputs_clearCommandStatus, encodeValue, State.clearCommandStatus_clearCommandStatus]
  rfl

/-- A decode does not see STATUS[5:0]. -/
theorem decodeCommand_clearCommandStatus (o : Byte0Order) (pol : Noncanon5Policy) (post : Word → Word) (s : State) :
    decodeCommand o pol post s.clearCommandStatus = decodeCommand o pol post s := by
  rw [decodeCommand, State.useInputs_clearCommandStatus, decodeWindow_clearCommandStatus]
  rfl

/-- A zigzag command does not see STATUS[5:0]. -/
theorem zigzagCommand_clearCommandStatus (f : Word → Word) (s : State) :
    zigzagCommand f s.clearCommandStatus = zigzagCommand f s := by
  rw [zigzagCommand, State.useInputs_clearCommandStatus, zigzagValue, State.clearCommandStatus_clearCommandStatus]
  rfl

/-- No command sees STATUS[5:0] (R25). -/
theorem exec_clearCommandStatus (i : Instr) (s : State) : exec i s.clearCommandStatus = exec i s := by
  obtain ⟨f, hexec, hf⟩ := exec_shared (P := fun f => f s.clearCommandStatus = f s)
    (fun _ => encodeCommand_clearCommandStatus _ _ s) (fun _ => decodeCommand_clearCommandStatus _ _ _ s)
    (fun _ => zigzagCommand_clearCommandStatus _ s) i
  rw [hexec, hexec, hf]

/-- No CMD write sees STATUS[5:0] (R25). -/
theorem issueCommand_clearCommandStatus (c : Byte) (s : State) :
    issueCommand c s.clearCommandStatus = issueCommand c s := by
  have comm : s.clearCommandStatus.storeCmd c = (s.storeCmd c).clearCommandStatus := rfl
  simp only [issueCommand, comm, exec_clearCommandStatus, State.clearCommandStatus_clearCommandStatus]

/-- Settles O11: the outcomes of a CMD write, each with its STATUS. -/
theorem commandIssueClearsStatus : Obligations.CommandIssueClearsStatus := by
  intro s v rest h
  obtain ⟨t, ht, hframe⟩ := issueCommand_next (v.setWidth 8) (s.withPending rest)
  have hcleared : step s.clearCommandStatus = .next t := by
    rw [step_write (s := s.clearCommandStatus) h rfl, writeReg]
    exact (issueCommand_clearCommandStatus _ (s.withPending rest)).trans ht
  refine ⟨t, (step_write h rfl).trans ht, hcleared, hframe.reserved, hframe.sticky, ?_⟩
  have hv : v.toNat % 256 = (v.setWidth 8).toNat := by simp
  rw [hv]
  generalize v.setWidth 8 = c at ht
  cases issueCommand_result ht with
  | encoded x hc status =>
    rcases hc with rfl | rfl <;> simp [flag_of_statusAfter status, status, statusAfter_and_low, StatusFlag.bit]
  | decoded n hc status =>
    rcases hc with rfl | rfl <;> simp [flag_of_statusAfter status, status, statusAfter_and_low, StatusFlag.bit]
  | zigzagged hc status =>
    rcases hc with rfl | rfl <;> simp [flag_of_statusAfter status, status, statusAfter_and_low, StatusFlag.bit]
  | short hc status => simp [flag_of_statusAfter status, StatusFlag.bit]
  | noncanonical hc status => simp [flag_of_statusAfter status, StatusFlag.bit]
  | illegal hc status => simp [flag_of_statusAfter status, StatusFlag.bit]

/-! ### The invariant of STATUS -/

/-- Byte 0 of a value's HIGH layout lies in the range of the value's length (R60, R63). -/
theorem lengthOfByte0_highBytes (v d : Nat) (hv : v < 2 ^ 32) :
    lengthOfByte0 ((highBytes v).getD 0 d) = lengthOfValue v := by
  unfold highBytes lengthOfValue
  split_ifs <;> simp only [List.getD_cons_zero, lengthOfByte0] <;> split_ifs <;> omega

/-- Byte 0 of an encoding tells its class, and is 0xF0 in class 5 (R63, R83). -/
theorem overwritePrefix_encHigh_b0 (x : Word) (old : Bytes5) :
    classOf (overwritePrefix (encHigh x) old).b0 = lenOf x ∧
      (lenOf x = .five → (overwritePrefix (encHigh x) old).b0 = 0xF0#8) := by
  constructor
  · have b0 : (overwritePrefix (encHigh x) old).b0.toNat = (highBytes x.toNat).getD 0 old.b0.toNat := by
      rw [← encHigh_toNat, List.getD_map]
      rfl
    apply LenClass.bytes_inj
    rw [classOf_bytes, lenOf_bytes, b0, lengthOfByte0_highBytes _ _ x.isLt]
  · intro h
    simp [overwritePrefix, encHigh, h]

/-- The invariant of a state before any command since reset. -/
theorem statusInv_of_cleared {s : State} (hstatus : s.status = 0x00#8) (hcmd : s.cmd = 0x00#8) : StatusInv s := by
  have hf : ∀ f, s.flag f = false := fun f => by simp [State.flag, hstatus]
  constructor <;> simp [hf, hstatus, hcmd]

/-- Settles O55: CMD and STATUS are 0 after reset. -/
theorem resetHasStatusInv : Obligations.ResetHasStatusInv :=
  statusInv_of_cleared rfl rfl

/-- The invariant speaks of CMD, STATUS, OUT_B, OUT_LEN and OUT_CONSUMED alone. -/
theorem StatusInv.of_kept {s t : State} (h : StatusInv s) (hcmd : t.cmd = s.cmd) (hstatus : t.status = s.status)
    (houtB : t.outB = s.outB) (houtLen : t.outLen = s.outLen) (hconsumed : t.outConsumed = s.outConsumed) :
    StatusInv t := by
  have hf := State.flag_congr hstatus
  constructor <;> simp only [hf, hcmd, hstatus, houtB, houtLen, hconsumed]
  · exact h.reserved
  · exact h.oneError
  · exact h.errorNoResult
  · exact h.bytesResult
  · exact h.consumedResult
  · exact h.valueResult
  · exact h.decodeError
  · exact h.policyError
  · exact h.illegal
  · exact h.beforeAnyCommand

/-- Each outcome of a CMD write has the invariant, whatever the state before it. -/
theorem CommandResult.statusInv {s t : State} (h : CommandResult s t.cmd t) (hr : t.status.getLsbD 7 = false) :
    StatusInv t := by
  cases h with
  | encoded x hc status outB outLen =>
    obtain ⟨hclass, hfive⟩ := overwritePrefix_encHigh_b0 x s.outB
    rw [← outB] at hclass hfive
    rw [← hclass] at outLen hfive
    refine ⟨hr, ?_, ?_, ?_, ?_, ?_, ?_, ?_, ?_, ?_⟩ <;>
      simp [flag_of_statusAfter status, StatusFlag.bit, status, statusAfter_and_low, outLen, hc]
    exact hfive
  | short hc status =>
    refine ⟨hr, ?_, ?_, ?_, ?_, ?_, ?_, ?_, ?_, ?_⟩ <;>
      simp [flag_of_statusAfter status, StatusFlag.bit, status, statusAfter_and_low, hc]
  | noncanonical hc status policy =>
    refine ⟨hr, ?_, ?_, ?_, ?_, ?_, ?_, ?_, ?_, ?_⟩ <;>
      simp [flag_of_statusAfter status, StatusFlag.bit, status, statusAfter_and_low, hc, policy]
  | decoded n hc status outConsumed =>
    have hn : 1 ≤ n.bytes ∧ n.bytes ≤ 5 := n.bytes_le_scratch
    refine ⟨hr, ?_, ?_, ?_, ?_, ?_, ?_, ?_, ?_, ?_⟩ <;>
      simp [flag_of_statusAfter status, StatusFlag.bit, status, statusAfter_and_low, hc, outConsumed, hn]
  | zigzagged hc status =>
    refine ⟨hr, ?_, ?_, ?_, ?_, ?_, ?_, ?_, ?_, ?_⟩ <;>
      simp [flag_of_statusAfter status, StatusFlag.bit, status, statusAfter_and_low, hc]
  | illegal hc status =>
    refine ⟨hr, ?_, ?_, ?_, ?_, ?_, ?_, ?_, ?_, ?_⟩ <;>
      simp [flag_of_statusAfter status, StatusFlag.bit, status, statusAfter_and_low, hc]

/-- A CMD write establishes the invariant. -/
theorem issueCommand_statusInv {c : Byte} {s t : State} (h : issueCommand c s = .next t)
    (hr : s.status.getLsbD 7 = false) : StatusInv t := by
  obtain ⟨t', ht', hframe⟩ := issueCommand_next c s
  cases ht'.symm.trans h
  have hcmd : t.cmd = c := hframe.cmd
  have hresult := issueCommand_result h
  rw [← hcmd] at hresult
  exact hresult.statusInv (hframe.reserved.trans hr)

/-- A register write keeps the invariant. -/
theorem writeReg_statusInv {r : Reg} {v : Word} {s t : State} (hs : StatusInv s) (h : writeReg r v s = .next t) :
    StatusInv t := by
  cases r with
  | cmd => exact issueCommand_statusInv h hs.reserved
  | _ =>
    cases h
    exact hs.of_kept rfl rfl rfl rfl rfl

/-- A register read keeps the invariant. -/
theorem readReg_statusInv {r : Reg} {s t : State} (hs : StatusInv s) (h : readReg r s = .next t) : StatusInv t := by
  obtain ⟨-, rfl⟩ := readReg_next h
  apply hs.of_kept <;> simp

/-- Settles O54: CMD writes and reset establish the invariant, and every other step keeps what it speaks of. -/
theorem stepKeepsStatusInv : Obligations.StepKeepsStatusInv := by
  intro s t hs h
  have hpop : ∀ rest, StatusInv (s.withPending rest) := fun _ => hs.of_kept rfl rfl rfl rfl rfl
  rcases step_cases h with ⟨-, rfl⟩ | ⟨n, v, r, rest, -, -, hw⟩ | ⟨n, r, rest, -, -, hr⟩ | ⟨rest, -, rfl⟩
  · exact hs
  · exact writeReg_statusInv (hpop rest) hw
  · exact readReg_statusInv (hpop rest) hr
  · exact statusInv_of_cleared rfl rfl

/-! ### Stale output bytes -/

/-- An encode leaves the bytes from OUT_LEN on (R27). -/
theorem encodeCommand_keeps_stale (o : Byte0Order) (pre : Word → Word) (s : State) (k : Fin 5)
    (hk : (encodeCommand o pre s).outLen.toNat ≤ k.val) :
    byteAt (encodeCommand o pre s).outB k = byteAt s.outB k := by
  obtain ⟨-, -, -, outB, outLen, -⟩ := encodeCommand_spec o pre s
  rw [outLen, LenClass.count_toNat, ← enc_length o] at hk
  rw [outB, byteAt_overwritePrefix, List.getD_eq_default _ _ hk]

/-- Settles O17: the bytes written are those below OUT_LEN, and a read of another stops by R26 or R27. -/
theorem staleOutputBytes : Obligations.StaleOutputBytes := by
  constructor
  · rintro i s (rfl | rfl)
    · exact ⟨_, rfl, encodeCommand_keeps_stale _ id s⟩
    · exact ⟨_, rfl, encodeCommand_keeps_stale _ Machine.zz s⟩
  · intro s k rest h hk
    have hr := regOfNumber_numberOfReg (.outB k)
    cases hv : s.flag .bv with
    | false => exact ⟨_, step_read_fault h hr (if_pos hv)⟩
    | true => exact ⟨.staleOutputByte k, step_read_fault h hr (by simp [State.readFault, hv, hk])⟩

/-! ### What a decode reads of the window -/

/-- Which bytes a decode reads depends on IN_AVAIL and byte 0, if there is one (R90). -/
theorem decodeInputs_congr {s t : State} (ha : t.avail = s.avail)
    (h0 : 0 < s.avail → t.byteOperand 0 = s.byteOperand 0) : decodeInputs t = decodeInputs s := by
  by_cases h : s.avail = 0
  · rw [decodeInputs, decodeInputs, ha, if_pos h, if_pos h]
  · have e0 : t.windowOperand.b0 = s.windowOperand.b0 := h0 (by omega)
    rw [decodeInputs, decodeInputs, ha, e0]

/-- The decoder's effect is the same on windows with the same available bytes (R23). -/
theorem decodeWindow_congr_avail (o : Byte0Order) (pol : Noncanon5Policy) (post : Word → Word) {w w' : Bytes5}
    (s : State) (h : ∀ k : Fin 5, k.val < s.avail → byteAt w' k = byteAt w k) :
    decodeWindow o pol post w' s = decodeWindow o pol post w s :=
  decodeWindow_congr o pol post s (h 0) fun hle k hk => h k (Nat.lt_of_lt_of_le hk hle)

/-! ### IN_AVAIL saturates, and bytes beyond it are ignored -/

/-- The state with another window and IN_AVAIL, and nothing else changed. -/
def State.withWindow (s : State) (b : Bytes5) (n : Count) : State := { s with inB := b, inAvail := n }

/-- The use of inputs does not see the window's content. -/
theorem State.useInputs_withWindow (s : State) (b : Bytes5) (n : Count) (rs : List Reg) :
    (s.withWindow b n).useInputs rs = (s.useInputs rs).withWindow b n := by
  simp only [State.useInputs_eq]
  rfl

/-- What is read in IN_B[k] is the same where the windows hold the same byte. -/
theorem State.byteOperand_withWindow {s : State} {b : Bytes5} {k : Fin 5} (h : byteAt b k = byteAt s.inB k)
    (n : Count) : (s.withWindow b n).byteOperand k = s.byteOperand k :=
  ite_congr rfl (fun _ => h) fun _ => rfl

/-- An encode does not see the window. -/
theorem encodeCommand_withWindow (o : Byte0Order) (pre : Word → Word) (s : State) (b : Bytes5) (n : Count) :
    encodeCommand o pre (s.withWindow b n) = (encodeCommand o pre s).withWindow b n := by
  rw [encodeCommand, State.useInputs_withWindow]
  rfl

/-- A zigzag command does not see the window. -/
theorem zigzagCommand_withWindow (f : Word → Word) (s : State) (b : Bytes5) (n : Count) :
    zigzagCommand f (s.withWindow b n) = (zigzagCommand f s).withWindow b n := by
  rw [zigzagCommand, State.useInputs_withWindow]
  rfl

/-- The decoder's effect for a given window sees min(IN_AVAIL, 5) alone of the window's registers. -/
theorem decodeWindow_withWindow (o : Byte0Order) (pol : Noncanon5Policy) (post : Word → Word) (w : Bytes5)
    (s : State) (b : Bytes5) (n : Count) (ha : (s.withWindow b n).avail = s.avail) :
    decodeWindow o pol post w (s.withWindow b n) = (decodeWindow o pol post w s).withWindow b n := by
  unfold decodeWindow
  rw [ha]
  split_ifs <;> rfl

/-- A decode sees min(IN_AVAIL, 5) and the window bytes below it (R23). -/
theorem decodeCommand_withWindow (o : Byte0Order) (pol : Noncanon5Policy) (post : Word → Word) (s : State)
    (b : Bytes5) (n : Count) (ha : (s.withWindow b n).avail = s.avail)
    (hb : ∀ k : Fin 5, k.val < s.avail → byteAt b k = byteAt s.inB k) :
    decodeCommand o pol post (s.withWindow b n) = (decodeCommand o pol post s).withWindow b n := by
  have hbyte : ∀ k : Fin 5, k.val < s.avail → (s.withWindow b n).byteOperand k = s.byteOperand k :=
    fun k hk => State.byteOperand_withWindow (hb k hk) n
  have huse : (s.useInputs (decodeInputs s)).avail = s.avail := by simp [State.avail_eq]
  rw [decodeCommand, decodeInputs_congr ha (hbyte 0), State.useInputs_withWindow,
    decodeWindow_withWindow _ _ _ _ _ _ _ (by rw [huse, ← ha]; rfl),
    decodeWindow_congr_avail (w := s.windowOperand) _ _ _ _ fun k hk => ?_]
  · rfl
  · rw [huse] at hk
    rw [State.byteAt_windowOperand, State.byteAt_windowOperand, hbyte k hk]

/-- A command sees min(IN_AVAIL, 5) and the window bytes below it, and keeps the window (R23, R142). -/
theorem exec_withWindow (i : Instr) (s : State) (b : Bytes5) (n : Count)
    (ha : (s.withWindow b n).avail = s.avail)
    (hb : ∀ k : Fin 5, k.val < s.avail → byteAt b k = byteAt s.inB k) :
    ∃ t, exec i s = .next t ∧ CommandFrame s t ∧ exec i (s.withWindow b n) = .next (t.withWindow b n) := by
  obtain ⟨t, ht, hframe⟩ := exec_frame i s
  obtain ⟨f, hexec, hf⟩ := exec_shared (P := fun f => f (s.withWindow b n) = (f s).withWindow b n)
    (fun _ => encodeCommand_withWindow _ _ s b n) (fun _ => decodeCommand_withWindow _ _ _ s b n ha hb)
    (fun _ => zigzagCommand_withWindow _ s b n) i
  cases (hexec s).symm.trans ht
  exact ⟨f s, ht, hframe, by rw [hexec, hf]⟩

/-- Settles O25: each half changes a window register and keeps what a command sees of it. -/
theorem availabilitySaturatesAtFive : Obligations.AvailabilitySaturatesAtFive := by
  constructor
  · intro i s n hs hn
    have ha : (s.withWindow s.inB n).avail = s.avail := by
      rw [State.avail_eq, State.avail_eq, min_eq_right hs]
      exact min_eq_right hn
    obtain ⟨t, ht, hframe, ht'⟩ := exec_withWindow i s s.inB n ha fun _ _ => rfl
    exact ⟨t, ht, ht'.trans (by rw [State.withWindow, ← hframe.inB])⟩
  · intro i s b hb
    obtain ⟨t, ht, hframe, ht'⟩ := exec_withWindow i s b s.inAvail rfl hb
    exact ⟨t, ht, ht'.trans (by rw [State.withWindow, ← hframe.inAvail])⟩

/-! ### Content the spec gives no value -/

/-- Two outcomes that agree in all the spec determines: next states that do, or the same stop. -/
inductive SameOutcome : Host.Outcome State Fault Refusal → Host.Outcome State Fault Refusal → Prop where
  | next {s t : State} (h : SameDetermined s t) : SameOutcome (.next s) (.next t)
  | fault (f : Fault) : SameOutcome (.fault f) (.fault f)
  | refused (r : Refusal) : SameOutcome (.refused r) (.refused r)

/-- What an outcome answers, a related one answers too. -/
theorem SameOutcome.transfer {x y : Host.Outcome State Fault Refusal} (h : SameOutcome x y) :
    (∀ s, x = .next s → ∃ t, y = .next t ∧ SameDetermined s t) ∧
      (∀ f, x = .fault f → y = .fault f) ∧ ∀ r, x = .refused r → y = .refused r := by
  refine ⟨fun s e => ?_, fun f e => ?_, fun r e => ?_⟩ <;> subst e
  · cases h with
    | next h => exact ⟨_, rfl, h⟩
  · cases h
    rfl
  · cases h
    rfl

namespace SameDetermined

variable {s t : State}

/-- Related states count the same inputs as written. -/
theorem inputWritten (h : SameDetermined s t) (r : Reg) : t.inputWritten r = s.inputWritten r :=
  State.inputWritten_congr h.written r

/-- Related states have the same flags. -/
theorem flag (h : SameDetermined s t) (f : StatusFlag) : t.flag f = s.flag f :=
  State.flag_congr h.status f

/-- Related states have the same bytes available. -/
theorem avail (h : SameDetermined s t) : t.avail = s.avail := by
  rw [State.avail_eq, State.avail_eq, h.inAvail]

/-- The same is read in IN_VALUE, written or not. -/
theorem valueOperand (h : SameDetermined s t) : t.valueOperand = s.valueOperand := by
  rw [State.valueOperand, State.valueOperand, h.inputWritten, h.resets]
  exact ite_congr rfl h.inValue fun _ => rfl

/-- The same is read in IN_B[k], written or not. -/
theorem byteOperand (h : SameDetermined s t) (k : Fin 5) : t.byteOperand k = s.byteOperand k := by
  rw [State.byteOperand, State.byteOperand, h.inputWritten, h.resets]
  exact ite_congr rfl (h.inB k) fun _ => rfl

/-- A decode reads the same window. -/
theorem windowOperand (h : SameDetermined s t) : t.windowOperand = s.windowOperand :=
  Bytes5.ext_byteAt fun k => by rw [State.byteAt_windowOperand, State.byteAt_windowOperand, h.byteOperand]

/-- The use of the same inputs leaves the same record. -/
theorem useInputs_modelFault (h : SameDetermined s t) (rs : List Reg) :
    (t.useInputs rs).modelFault = (s.useInputs rs).modelFault := by
  rw [State.useInputs_modelFault, State.useInputs_modelFault, h.modelFault, State.firstUnwritten_congr h.written]

/-- The use of the same inputs keeps the relation. -/
theorem useInputs (h : SameDetermined s t) (rs : List Reg) : SameDetermined (s.useInputs rs) (t.useInputs rs) := by
  have hm := h.useInputs_modelFault rs
  rw [State.useInputs_eq] at hm ⊢
  rw [State.useInputs_eq] at hm ⊢
  exact { h with modelFault := hm }

/-- Taking the next event keeps the relation. -/
theorem withPending (h : SameDetermined s t) (es : List HostEvent) :
    SameDetermined (s.withPending es) (t.withPending es) :=
  { h with pending := rfl }

/-- A write of CMD keeps the relation. -/
theorem storeCmd (h : SameDetermined s t) (c : Byte) : SameDetermined (s.storeCmd c) (t.storeCmd c) :=
  { h with cmd := rfl }

/-- A host write of IN_VALUE keeps the relation. -/
theorem writeInValue (h : SameDetermined s t) (v : Word) : SameDetermined (s.writeInValue v) (t.writeInValue v) :=
  { h with written := by simp [h.written], inValue := fun _ => rfl }

/-- A host write of IN_B[k] keeps the relation. -/
theorem writeInB (h : SameDetermined s t) (k : Fin 5) (b : Byte) :
    SameDetermined (s.writeInB k b) (t.writeInB k b) :=
  { h with
    written := by simp [h.written]
    inValue := fun hw => h.inValue (by fin_cases k <;> exact hw)
    inB := fun j hj => by
      simp only [State.writeInB_inB, State.writeInB_written, byteAt_setByteAt, byteWritten_markByteWritten] at hj ⊢
      by_cases hjk : j = k
      · rw [if_pos hjk, if_pos hjk]
      · rw [if_neg hjk, if_neg hjk]
        exact h.inB j (by simpa [hjk] using hj) }

/-- A host write of IN_AVAIL keeps the relation. -/
theorem writeInAvail (h : SameDetermined s t) (n : Count) : SameDetermined (s.writeInAvail n) (t.writeInAvail n) :=
  { h with inAvail := rfl }

/-- The same value read by the host keeps the relation. -/
theorem pushRead (h : SameDetermined s t) (x : HostRead) : SameDetermined (s.pushRead x) (t.pushRead x) :=
  { h with reads := by simp [h.reads] }

/-- The reset event keeps the relation. -/
theorem resetBlock (h : SameDetermined s t) : SameDetermined s.resetBlock t.resetBlock where
  cmd := rfl
  status := rfl
  inAvail := rfl
  written := rfl
  modelFault := h.modelFault
  resets := congrArg (· + 1) h.resets
  pending := h.pending
  reads := h.reads
  inValue := fun _ => rfl
  inB := fun _ _ => rfl
  outLen := fun _ => rfl
  outB := fun _ _ _ => rfl
  outValue := fun _ => rfl
  outConsumed := fun _ => rfl

/-- A command keeps the relation if it leaves the same STATUS, record, and outputs as far as they are valid: the rest
it does not change. -/
theorem of_frames {s' t' : State} (h : SameDetermined s t) (hs : CommandFrame s s') (ht : CommandFrame t t')
    {b : Byte} (statusS : s'.status = statusAfter s b) (statusT : t'.status = statusAfter t b)
    (modelFault : t'.modelFault = s'.modelFault)
    (outLen : b.getLsbD 0 = true → t'.outLen = s'.outLen)
    (outB : b.getLsbD 0 = true → ∀ k : Fin 5, k.val < s'.outLen.toNat → byteAt t'.outB k = byteAt s'.outB k)
    (outValue : b.getLsbD 1 = true → t'.outValue = s'.outValue)
    (outConsumed : b.getLsbD 2 = true → t'.outConsumed = s'.outConsumed) : SameDetermined s' t' where
  cmd := by rw [hs.cmd, ht.cmd, h.cmd]
  status := by rw [statusS, statusT, statusAfter, statusAfter, h.status]
  inAvail := by rw [hs.inAvail, ht.inAvail, h.inAvail]
  written := by rw [hs.written, ht.written, h.written]
  modelFault := modelFault
  resets := by rw [hs.resets, ht.resets, h.resets]
  pending := by rw [hs.pending, ht.pending, h.pending]
  reads := by rw [hs.reads, ht.reads, h.reads]
  inValue := by
    rw [hs.inValue, ht.inValue, hs.written]
    exact h.inValue
  inB := by
    rw [hs.inB, ht.inB, hs.written]
    exact h.inB
  outLen := by
    rw [flag_of_statusAfter statusS]
    exact outLen
  outB := by
    rw [flag_of_statusAfter statusS]
    exact outB
  outValue := by
    rw [flag_of_statusAfter statusS]
    exact outValue
  outConsumed := by
    rw [flag_of_statusAfter statusS]
    exact outConsumed

/-- An error at issue keeps the relation: no output is valid after it. -/
theorem raise_clear (h : SameDetermined s t) (e : ErrorCause) :
    SameDetermined (s.clearCommandStatus.raise e) (t.clearCommandStatus.raise e) := by
  apply h.of_frames (s.raise_clear_frame e) (t.raise_clear_frame e) (s.raise_clear_status e) (t.raise_clear_status e)
    h.modelFault <;> cases e <;> simp [ErrorCause.flag, StatusFlag.bit]

/-- An encode keeps the relation: it encodes the same value, and the bytes beyond OUT_LEN do not count. -/
theorem encodeCommand (h : SameDetermined s t) (o : Byte0Order) (pre : Word → Word) :
    SameDetermined (encodeCommand o pre s) (encodeCommand o pre t) := by
  obtain ⟨hs, -, statusS, outBS, outLenS, faultS⟩ := encodeCommand_spec o pre s
  obtain ⟨ht, -, statusT, outBT, outLenT, faultT⟩ := encodeCommand_spec o pre t
  rw [h.valueOperand] at outBT outLenT
  refine h.of_frames hs ht statusS statusT ?_ (fun _ => outLenT.trans outLenS.symm) (fun _ k hk => ?_)
    (fun hv => absurd hv (by decide)) (fun hc => absurd hc (by decide))
  · rw [faultS, faultT, h.useInputs_modelFault]
  · rw [outLenS, LenClass.count_toNat, ← enc_length o] at hk
    rw [outBS, outBT, byteAt_overwritePrefix, byteAt_overwritePrefix, List.getD_eq_getElem _ _ hk,
      List.getD_eq_getElem _ _ hk]

/-- A zigzag command keeps the relation: it maps the same value. -/
theorem zigzagCommand (h : SameDetermined s t) (f : Word → Word) :
    SameDetermined (zigzagCommand f s) (zigzagCommand f t) := by
  obtain ⟨hs, -, statusS, valueS, -, faultS⟩ := zigzagCommand_spec f s
  obtain ⟨ht, -, statusT, valueT, -, faultT⟩ := zigzagCommand_spec f t
  refine h.of_frames hs ht statusS statusT ?_ (fun hb => absurd hb (by decide)) (fun hb => absurd hb (by decide))
    (fun _ => ?_) (fun hc => absurd hc (by decide))
  · rw [faultS, faultT, h.useInputs_modelFault]
  · rw [valueS, valueT, h.valueOperand]

/-- The decoder's effect for the same window keeps the relation: it has the same outcome. -/
theorem decodeWindow (h : SameDetermined s t) (o : Byte0Order) (pol : Noncanon5Policy) (post : Word → Word)
    (w : Bytes5) : SameDetermined (decodeWindow o pol post w s) (decodeWindow o pol post w t) := by
  have hs := (decodeWindow_frame o pol post w s).1
  have ht := (decodeWindow_frame o pol post w t).1
  unfold Machine.decodeWindow at hs ht ⊢
  rw [h.avail] at ht ⊢
  split_ifs at hs ht ⊢
  · exact h.raise_clear _
  · exact h.raise_clear _
  · exact h.raise_clear _
  · exact h.of_frames hs ht (decoded_status _ _ _) (decoded_status _ _ _) h.modelFault
      (fun hb => absurd hb (by decide)) (fun hb => absurd hb (by decide)) (fun _ => rfl) (fun _ => rfl)

/-- A decode keeps the relation: it reads the same window. -/
theorem decodeCommand (h : SameDetermined s t) (o : Byte0Order) (pol : Noncanon5Policy) (post : Word → Word) :
    SameDetermined (decodeCommand o pol post s) (decodeCommand o pol post t) := by
  rw [Machine.decodeCommand, Machine.decodeCommand, h.windowOperand,
    decodeInputs_congr h.avail fun _ => h.byteOperand 0]
  exact (h.useInputs _).decodeWindow o pol post _

/-- A command on related states. -/
theorem exec (h : SameDetermined s t) (i : Instr) : SameOutcome (exec i s) (exec i t) := by
  obtain ⟨f, hexec, hf⟩ := exec_shared (P := fun f => SameDetermined (f s) (f t)) (fun _ => h.encodeCommand _ _)
    (fun _ => h.decodeCommand _ _ _) (fun _ => h.zigzagCommand _) i
  rw [hexec, hexec]
  exact .next hf

/-- A CMD write on related states. -/
theorem issueCommand (h : SameDetermined s t) (c : Byte) : SameOutcome (issueCommand c s) (issueCommand c t) := by
  unfold Machine.issueCommand
  cases decodeByte c with
  | ok i => exact (h.storeCmd c).exec i
  | error x => exact .next ((h.storeCmd c).raise_clear .illegalCommand)

/-- A host write on related states. -/
theorem writeReg (h : SameDetermined s t) (r : Reg) (v : Word) : SameOutcome (writeReg r v s) (writeReg r v t) := by
  cases r with
  | cmd => exact h.issueCommand _
  | inValue => exact .next (h.writeInValue v)
  | inB k => exact .next (h.writeInB k _)
  | inAvail => exact .next (h.writeInAvail _)
  | _ => exact .next h

/-- Related states stop the same host reads (R26, R27). -/
theorem readFault (h : SameDetermined s t) (r : Reg) : t.readFault r = s.readFault r := by
  cases r with
  | outB k =>
    simp only [State.readFault, h.flag]
    cases hv : s.flag .bv with
    | false => rfl
    | true => rw [h.outLen hv]
  | outLen => simp only [State.readFault, h.flag]
  | outValue => simp only [State.readFault, h.flag]
  | outConsumed => simp only [State.readFault, h.flag]
  | _ => rfl

/-- Related states give the host the same content where a read does not stop. -/
theorem content (h : SameDetermined s t) {r : Reg} (hr : s.readFault r = none) : t.content r = s.content r := by
  cases r with
  | cmd => simp only [State.content, h.cmd]
  | status => simp only [State.content, State.statusRead, h.status]
  | inValue => exact h.valueOperand
  | inB k => simp only [State.content, h.byteOperand]
  | inAvail => simp only [State.content, h.inAvail]
  | outB k =>
    simp only [State.readFault] at hr
    split_ifs at hr with hv hk
    simp only [State.content, h.outB (by simpa using hv) k (by omega)]
  | outLen =>
    simp only [State.readFault] at hr
    split_ifs at hr with hv
    simp only [State.content, h.outLen (by simpa using hv)]
  | outValue =>
    simp only [State.readFault] at hr
    split_ifs at hr with hv
    exact h.outValue (by simpa using hv)
  | outConsumed =>
    simp only [State.readFault] at hr
    split_ifs at hr with hv
    simp only [State.content, h.outConsumed (by simpa using hv)]

/-- A host read on related states. -/
theorem readReg (h : SameDetermined s t) (r : Reg) : SameOutcome (readReg r s) (readReg r t) := by
  unfold Machine.readReg
  rw [h.readFault r]
  cases hr : s.readFault r with
  | none =>
    simp only [h.content hr]
    exact .next ((h.useInputs [r]).pushRead _)
  | some f => exact .fault f

/-- One event on related states. -/
theorem performEvent (h : SameDetermined s t) (e : HostEvent) :
    SameOutcome (performEvent e s) (performEvent e t) := by
  cases e with
  | write n v =>
    simp only [Machine.performEvent]
    cases regOfNumber n with
    | some r => exact h.writeReg r v
    | none => exact .refused _
  | read n =>
    simp only [Machine.performEvent]
    cases regOfNumber n with
    | some r => exact h.readReg r
    | none => exact .refused _
  | reset => exact .next h.resetBlock
  | secondHost => exact .refused _

/-- One step on related states. -/
theorem step (h : SameDetermined s t) : SameOutcome (step s) (step t) := by
  have hp := h.pending
  cases hs : s.pending with
  | nil =>
    rw [hs] at hp
    rw [step_idle hs, step_idle hp]
    exact .next h
  | cons e rest =>
    rw [hs] at hp
    rw [step_event hs, step_event hp]
    exact (h.withPending rest).performEvent e

end SameDetermined

/-- Settles O53: each operation of a step takes related states to related outcomes. -/
theorem undeterminedContentNeverMatters : Obligations.UndeterminedContentNeverMatters :=
  fun _ _ h => h.step.transfer

end Sys2Proof.Machine
end

/-! PROOF. The host's accesses as a sequence: one event a step, what a read and a write of a register other than CMD
leave unchanged, and the second host (R48, R49, R54). -/

namespace Sys2Proof.Machine

/-- A write event that answers is the write of the register with its number. -/
theorem step_write_inv {s t : State} {n : Nat} {v : Word} {rest : List HostEvent}
    (hp : s.pending = .write n v :: rest) (h : step s = .next t) :
    ∃ r, regOfNumber n = some r ∧ writeReg r v (s.withPending rest) = .next t := by
  cases hn : regOfNumber n with
  | none => simp [step_event hp, performEvent, hn] at h
  | some r => exact ⟨r, rfl, (step_write hp hn).symm.trans h⟩

/-- A read event that answers names a register that may be read; its content goes to the host, and the use of an
unwritten input to the record. -/
theorem step_read_inv {s t : State} {n : Nat} {rest : List HostEvent} (hp : s.pending = .read n :: rest)
    (h : step s = .next t) :
    ∃ r, regOfNumber n = some r ∧ s.readFault r = none ∧ t = { s with
      pending := rest, reads := s.reads ++ [⟨r, s.content r⟩],
      modelFault := s.modelFault.or ((s.firstUnwritten [r]).map .unwrittenInput) } := by
  cases hn : regOfNumber n with
  | none => simp [step_event hp, performEvent, hn] at h
  | some r =>
    have hf : s.readFault r = none := (readReg_next ((step_read hp hn).symm.trans h)).1
    cases (step_read_next hp hn hf).symm.trans h
    exact ⟨r, rfl, hf, rfl⟩

/-- A write of a register, a command with it, leaves the events to come. -/
theorem writeReg_pending {r : Reg} {v : Word} {s t : State} (h : writeReg r v s = .next t) :
    t.pending = s.pending := by
  cases r with
  | cmd =>
    obtain ⟨t', ht', hframe⟩ := issueCommand_next (v.setWidth 8) s
    cases ht'.symm.trans h
    exact hframe.pending
  | _ =>
    cases h
    rfl

/-- Settles O47: the step takes its event off the list, and performing the event leaves the rest. -/
theorem eventsTakenInOrder : Obligations.EventsTakenInOrder := by
  intro s t e rest hp h
  cases e with
  | write n v =>
    obtain ⟨r, -, ht⟩ := step_write_inv hp h
    exact writeReg_pending ht
  | read n =>
    obtain ⟨r, -, -, rfl⟩ := step_read_inv hp h
    rfl
  | reset =>
    cases (step_event hp).symm.trans h
    rfl
  | secondHost => cases (step_event hp).symm.trans h

/-- Settles O49: performing the event is the refusal. -/
theorem secondHostRefused : Obligations.SecondHostRefused :=
  fun _ _ hp => step_event hp

/-- Settles O46: a read changes only the host's side and the record, which no second read looks at, and the one
register with number 0 is CMD. -/
theorem onlyCommandWritesHaveSideEffects : Obligations.OnlyCommandWritesHaveSideEffects := by
  refine ⟨?readKeeps, ?readAgain, ?writeKeeps⟩
  case readKeeps =>
    intro s t n rest hp h
    obtain ⟨r, -, -, rfl⟩ := step_read_inv hp h
    exact ⟨rfl, rfl, rfl, rfl, rfl, rfl, rfl, rfl, rfl⟩
  case readAgain =>
    intro s t n rest hp h
    obtain ⟨r, hr, hf, rfl⟩ := step_read_inv hp h
    exact ⟨_, ⟨r, s.content r⟩, step_read_next rfl hr hf, rfl, List.append_assoc ..⟩
  case writeKeeps =>
    intro s t n v rest hp hn h
    obtain ⟨r, hr, ht⟩ := step_write_inv hp h
    cases r with
    | cmd => exact absurd (eq_numberOfReg hr) hn
    | _ =>
      cases ht
      exact ⟨rfl, rfl, ⟨rfl, rfl⟩, rfl, rfl⟩

end Sys2Proof.Machine

/-! PROOF. The command word and the wire format: what a CMD write does by the byte it stores, the bytes and the value
of the HIGH and LOW layouts, and the window pseudo-instructions (R61, R62, R66 to R68, R70, R71, R73). -/

namespace Sys2Proof.Machine

/-! ### The command word -/

/-- A command's word, with any bytes after it, decodes to the command (R68, R70). -/
theorem decode_encode_append (i : Instr) (rest : List Byte) : decode (encode i ++ rest) = .ok (i, rest) := by
  cases i <;> rfl

/-- A byte that decodes is the word of the command it decodes to (R68, R70). -/
theorem encodeByte_of_decodeByte {c : Byte} {i : Instr} (h : decodeByte c = .ok i) : encodeByte i = c :=
  ((decodeByte_spec c).1 i (by rw [h]; rfl)).symm

/-- The words of the commands are the numbers 1 to 6 (R70). -/
theorem encodeByte_range (i : Instr) : 1 ≤ (encodeByte i).toNat ∧ (encodeByte i).toNat ≤ 6 := by
  cases i <;> decide

/-- The byte 0 and the bytes from 7 on are no command (R71). -/
theorem decodeByte_illegal {c : Byte} (hc : c.toNat = 0 ∨ 7 ≤ c.toNat) : ∃ x, decodeByte c = .error x := by
  cases hd : decodeByte c with
  | error x => exact ⟨x, rfl⟩
  | ok i =>
    obtain ⟨hlow, hhigh⟩ := encodeByte_range i
    rw [encodeByte_of_decodeByte hd] at hlow hhigh
    omega

/-- A CMD write of a command's word is the command, after CMD took the word (R68). -/
theorem issueCommand_of_ok {c : Byte} {i : Instr} (h : decodeByte c = .ok i) (s : State) :
    issueCommand c s = exec i (s.storeCmd c) := by
  simp only [issueCommand, h]

/-- A CMD write of any other byte raises IllegalCommand, after CMD took the byte (R71). -/
theorem issueCommand_of_error {c : Byte} {x : DecodeReject} (h : decodeByte c = .error x) (s : State) :
    issueCommand c s = .next ((s.storeCmd c).clearCommandStatus.raise .illegalCommand) := by
  simp only [issueCommand, h]

/-- An error at issue, as one update of STATUS (R25, R112). -/
theorem State.raise_clear_eq (s : State) (e : ErrorCause) :
    s.clearCommandStatus.raise e = s.withStatus (statusAfter s ((1#8 <<< e.flag.bit) ||| 0x40#8)) := by
  rw [← State.raise_clear_status]
  rfl

/-- Settles O5: six words are encodings of commands, and the other three are refused by OP or RSV. -/
theorem opcodeMapWords : Obligations.OpcodeMapWords :=
  ⟨decode_encode_append .encu [], decode_encode_append .encs [], decode_encode_append .decu [],
    decode_encode_append .decs [], decode_encode_append .zz [], decode_encode_append .unzz [], rfl, rfl, rfl⟩

/-- Settles O6: the two directions of the round trip. -/
theorem commandDecodeEncodeAgree : Obligations.CommandDecodeEncodeAgree :=
  ⟨decode_encode_append, fun _ _ => encodeByte_of_decodeByte⟩

/-- Settles O7: a write of register 0 issues its low 8 bits. -/
theorem stepRunsDecodedCommand : Obligations.StepRunsDecodedCommand := by
  intro s v rest i hp hi
  rw [step_write hp (regOfNumber_numberOfReg .cmd), writeReg, issueCommand_of_ok hi]
  rfl

/-- Settles O8: the low 8 bits are no command, and the error is one update of STATUS. -/
theorem illegalCommandEffect : Obligations.IllegalCommandEffect := by
  intro s v rest hp hv
  obtain ⟨x, hx⟩ := decodeByte_illegal (c := v.setWidth 8) (by simpa using hv)
  rw [step_write hp (regOfNumber_numberOfReg .cmd), writeReg, issueCommand_of_error hx, State.raise_clear_eq]
  rfl

/-! ### The encoder's bytes -/

/-- What an encode of a written IN_VALUE leaves in OUT_B and OUT_LEN, its bytes taken as numbers (R80, R81). -/
theorem encodeCommand_outputIs (o : Byte0Order) (pre : Word → Word) {s : State} (h : s.inputWritten .inValue = true) :
    OutputIs ((enc o (pre s.inValue)).map BitVec.toNat) (encodeCommand o pre s) := by
  obtain ⟨-, -, -, outB, outLen, -⟩ := encodeCommand_spec o pre s
  rw [State.valueOperand_written h] at outB outLen
  constructor
  · rw [outLen, LenClass.count_toNat, List.length_map, enc_length]
  · intro k b hb
    rw [List.getElem?_map] at hb
    obtain ⟨x, hx, rfl⟩ := Option.map_eq_some_iff.1 hb
    rw [outB, byteAt_overwritePrefix, List.getD_eq_getElem?_getD, hx, Option.getD_some]

/-- Settles O12: OUT_LEN is the length of the class of IN_VALUE. -/
theorem encuLengthByRange : Obligations.EncuLengthByRange := by
  intro s h
  obtain ⟨-, -, -, -, outLen, -⟩ := encodeCommand_spec Config.byte0Order id s
  refine ⟨_, rfl, ?_⟩
  rw [outLen, LenClass.count_toNat, lenOf_bytes, State.valueOperand_written h]
  rfl

/-- Settles O13: the encoder's bytes under HIGH are R62's by division. -/
theorem encuWritesHighBytes : Obligations.EncuWritesHighBytes := by
  intro s h
  obtain ⟨-, -, status, -⟩ := encodeCommand_spec Config.byte0Order id s
  refine ⟨_, rfl, ?_, status⟩
  rw [← encHigh_toNat]
  exact encodeCommand_outputIs .high id h

/-- Settles O38: the encoder's bytes under LOW are R66's by division. -/
theorem lowLayoutBytes : Obligations.LowLayoutBytes := by
  intro pre s h
  rw [← encLow_toNat]
  exact encodeCommand_outputIs .low pre h

/-! ### The decoder's value -/

/-- Settles O39: with its bytes available and written the decode reads them all, and under IGNORE it succeeds. -/
theorem lowLayoutValue : Obligations.LowLayoutValue := by
  intro s havail hwritten
  have hready : ∀ k : Fin 5, k.val < windowBytesRead s → s.inputWritten (.inB k) = true := by
    rwa [windowBytesRead, if_pos havail]
  have hbytes : (classOf s.inB.b0).bytes ≤ s.avail := by
    rwa [classOf_bytes, State.avail_eq]
  obtain ⟨outValue, outConsumed, status⟩ :=
    decodeWindow_success .low .ignore id s.inB s hbytes (by simp)
  rw [decodeCommand_ready .low .ignore id hready]
  refine ⟨?_, ?_, status⟩
  · rw [outValue]
    exact valLow_toNat s.inB
  · rw [outConsumed, LenClass.count_toNat, classOf_bytes]

/-! ### The window lines of host assembly -/

/-- A byte list of a window line has 1 to 5 bytes (R73). -/
theorem windowBytesWf_iff (bs : List Byte) : windowBytesWf bs = true ↔ 1 ≤ bs.length ∧ bs.length ≤ 5 := by
  simp [windowBytesWf]

/-- One write a byte. -/
theorem windowWrites_length (n : Nat) (bs : List Byte) : (windowWrites n bs).length = bs.length := by
  induction bs generalizing n with
  | nil => rfl
  | cons b bs ih => rw [windowWrites, List.length_cons, List.length_cons, ih]

/-- Byte k goes to the register k places after the first. -/
theorem windowWrites_getElem? (n : Nat) (bs : List Byte) (k : Nat) :
    (windowWrites n bs)[k]? = bs[k]?.map fun b => .write (n + k) (b.setWidth 32) := by
  induction bs generalizing n k with
  | nil => rfl
  | cons b bs ih =>
    cases k with
    | zero => rfl
    | succ k =>
      have hreg : n + 1 + k = n + (k + 1) := by omega
      rw [windowWrites, List.getElem?_cons_succ, List.getElem?_cons_succ, ih, hreg]

/-- The events of a window line: the byte writes, IN_AVAIL and the command (R73). -/
theorem windowEvents_command (bs : List Byte) (i : Instr) :
    windowEvents bs ++ [commandEvent i] =
      windowWrites 3 bs ++ [.write 8 (BitVec.ofNat 32 bs.length), commandEvent i] :=
  List.append_assoc ..

/-- Settles O57: the byte writes from IN_B0 on are the line's first events, and the check on the list is its length. -/
theorem windowLinesExpand : Obligations.WindowLinesExpand := by
  intro bs
  constructor
  · intro hlen
    have hwf := (windowBytesWf_iff bs).2 hlen
    refine ⟨windowWrites 3 bs, ?_, ?_, windowWrites_length 3 bs, ?_⟩
    · rw [expandLine, if_pos hwf, windowEvents_command]
      rfl
    · rw [expandLine, if_pos hwf, windowEvents_command]
      rfl
    · intro k b hb
      rw [windowWrites_getElem?, hb, Option.map_some]
  · intro hlen
    have hwf : ¬ windowBytesWf bs = true := by
      rw [windowBytesWf_iff]
      omega
    exact ⟨if_neg hwf, if_neg hwf⟩

end Sys2Proof.Machine

/-! PROOF. The encoder: its bytes through the zigzag map, what it reads and leaves unchanged, and that its encodings
are minimal (R80 to R84, R27). -/

namespace Sys2Proof.Machine

/-! ### ENCU and ENCS as the one encode command -/

/-- Each of the two encode commands is the shared operation under one map of the operand (R80, R81). -/
theorem exec_encode {i : Instr} (h : i = .encu ∨ i = .encs) :
    ∃ pre, ∀ s, exec i s = .next (encodeCommand Config.byte0Order pre s) := by
  rcases h with rfl | rfl
  · exact ⟨id, fun _ => rfl⟩
  · exact ⟨zz, fun _ => rfl⟩

/-- Encodes that read the same operand leave the same OUT_LEN, and the same bytes below it (R82). -/
theorem encodeCommand_output_congr (o : Byte0Order) (pre : Word → Word) {s s' : State}
    (h : s'.valueOperand = s.valueOperand) :
    (encodeCommand o pre s').outLen = (encodeCommand o pre s).outLen ∧
      ∀ k : Fin 5, k.val < (encodeCommand o pre s).outLen.toNat →
        byteAt (encodeCommand o pre s').outB k = byteAt (encodeCommand o pre s).outB k := by
  obtain ⟨-, -, -, outB, outLen, -⟩ := encodeCommand_spec o pre s
  obtain ⟨-, -, -, outB', outLen', -⟩ := encodeCommand_spec o pre s'
  rw [h] at outB' outLen'
  refine ⟨outLen'.trans outLen.symm, fun k hk => ?_⟩
  rw [outLen, LenClass.count_toNat, ← enc_length o] at hk
  rw [outB, outB', byteAt_overwritePrefix, byteAt_overwritePrefix, List.getD_eq_getElem _ _ hk,
    List.getD_eq_getElem _ _ hk]

/-- Settles O37: the frame of the shared operation, and the bytes it does not write. -/
theorem encoderFrame : Obligations.EncoderFrame := by
  intro i s hi
  obtain ⟨pre, hexec⟩ := exec_encode hi
  obtain ⟨frame, values, -⟩ := encodeCommand_spec Config.byte0Order pre s
  exact ⟨_, hexec s, frame, values, encodeCommand_keeps_stale _ pre s⟩

/-- Settles O15: two written IN_VALUEs that are equal are the same operand, and STATUS[5:0] is BV alone. -/
theorem encoderReadsOnlyInValue : Obligations.EncoderReadsOnlyInValue := by
  intro i s s' hi hs hs' hvalue
  obtain ⟨pre, hexec⟩ := exec_encode hi
  obtain ⟨frame, values, status, -⟩ := encodeCommand_spec Config.byte0Order pre s
  obtain ⟨-, -, status', -⟩ := encodeCommand_spec Config.byte0Order pre s'
  have operand : s'.valueOperand = s.valueOperand := by
    rw [State.valueOperand_written hs, State.valueOperand_written hs', hvalue]
  obtain ⟨outLen, outB⟩ := encodeCommand_output_congr Config.byte0Order pre operand
  refine ⟨_, _, hexec s, hexec s', outLen, outB, ?_, frame, values, encodeCommand_keeps_stale _ pre s⟩
  rw [status, status', statusAfter_and_low, statusAfter_and_low]

/-! ### The zigzag map -/

/-- An arithmetic right shift by 31 gives the sign bit in every place. -/
theorem sshiftRight_31 (s : Word) : s.sshiftRight 31 = if s.msb then BitVec.allOnes 32 else 0#32 := by
  have hlt := s.isLt
  have hmsb := BitVec.msb_eq_true_iff_two_mul_ge (x := s)
  apply BitVec.eq_of_toNat_eq
  rw [BitVec.toNat_sshiftRight, Nat.shiftRight_eq_div_pow, Nat.shiftRight_eq_div_pow]
  split
  case isTrue h =>
    have := hmsb.1 h
    rw [BitVec.toNat_allOnes]
    omega
  case isFalse h =>
    rw [hmsb] at h
    rw [BitVec.toNat_ofNat]
    omega

/-- The zigzag map doubles a word, and complements the double of a negative one (R102). -/
theorem zz_eq (s : Word) : zz s = if s.msb then ~~~(s <<< 1) else s <<< 1 := by
  rw [zz, sshiftRight_31]
  split
  · exact BitVec.xor_allOnes
  · exact BitVec.xor_zero

/-- The zigzag map of a word is the one of the integers (R102). -/
theorem zz_toNat (s : Word) : ((zz s).toNat : Int) = zigzagInt s.toInt := by
  have hlt := s.isLt
  have hmsb := BitVec.msb_eq_true_iff_two_mul_ge (x := s)
  rw [zz_eq, zigzagInt, BitVec.toInt_eq_msb_cond]
  split
  case isTrue h =>
    have := hmsb.1 h
    rw [BitVec.toNat_not, BitVec.toNat_shiftLeft, Nat.shiftLeft_eq]
    split <;> omega
  case isFalse h =>
    rw [hmsb] at h
    rw [BitVec.toNat_shiftLeft, Nat.shiftLeft_eq]
    split <;> omega

/-- Settles O14: the encoder's bytes under HIGH, of the zigzag image. -/
theorem encsWritesZigzagBytes : Obligations.EncsWritesZigzagBytes := by
  intro s h
  obtain ⟨-, -, status, -⟩ := encodeCommand_spec Config.byte0Order zz s
  refine ⟨_, rfl, ?_, status⟩
  rw [← zz_toNat, Int.toNat_natCast, ← encHigh_toNat]
  exact encodeCommand_outputIs .high zz h

/-! ### Minimal length -/

/-- A value of at most 7n bits takes at most n bytes, and no value takes more than five (R60, R61). -/
theorem lengthOfValue_le {v n : Nat} (hn : 1 ≤ n) (hv : v < 2 ^ (7 * n) ∨ 5 ≤ n) : lengthOfValue v ≤ n := by
  by_cases h5 : 5 ≤ n
  · unfold lengthOfValue
    split_ifs <;> omega
  · have hv' := hv.resolve_right h5
    unfold lengthOfValue
    interval_cases n <;> split_ifs <;> omega

/-- A window of a class below five has at most seven value bits a byte (R60, R64). -/
theorem valHigh_lt (c : LenClass) (b : Bytes5) (hc : c ≠ .five) : (valHigh c b).toNat < 2 ^ (7 * c.bytes) := by
  have h1 := b.b1.isLt
  have h2 := b.b2.isLt
  have h3 := b.b3.isLt
  have W := wordField_toNat
  obtain ⟨e2, e3⟩ := highTail_toNat b
  cases c <;> simp only [valHigh, BitVec.or_assoc, LenClass.bytes]
  case one =>
    rw [W]
    omega
  case two =>
    rw [shift_or_toNat _ _ _ (by rw [W]; omega) (by rw [W]; omega), W, W]
    omega
  case three =>
    rw [shift_or_toNat _ _ _ (by rw [e2]; omega) (by rw [W]; omega), e2, W]
    omega
  case four =>
    rw [shift_or_toNat _ _ _ (by rw [e3]; omega) (by rw [W]; omega), e3, W]
    omega
  case five => exact absurd rfl hc

/-- No class shorter than the minimal length of a value has a window of that value (R83). -/
theorem lengthOfValue_valHigh_le (c : LenClass) (b : Bytes5) : lengthOfValue (valHigh c b).toNat ≤ c.bytes := by
  refine lengthOfValue_le c.bytes_le_scratch.1 ?_
  by_cases hc : c = .five
  · exact .inr (by rw [hc]; exact le_rfl)
  · exact .inl (valHigh_lt c b hc)

/-- An encode of x leaves x's minimal length in OUT_LEN, and 0xF0 in byte 0 if that is five (R62, R83). -/
theorem encodeCommand_high_minimal (pre : Word → Word) {s : State} (h : s.inputWritten .inValue = true) :
    (encodeCommand .high pre s).outLen.toNat = lengthOfValue (pre s.inValue).toNat ∧
      ((encodeCommand .high pre s).outLen.toNat = 5 → (encodeCommand .high pre s).outB.b0 = 0xF0#8) := by
  obtain ⟨-, -, -, outB, outLen, -⟩ := encodeCommand_spec .high pre s
  rw [State.valueOperand_written h] at outB outLen
  rw [outLen, outB, LenClass.count_toNat]
  exact ⟨lenOf_bytes _, fun h5 => (overwritePrefix_encHigh_b0 _ _).2 (LenClass.bytes_inj h5)⟩

/-- Settles O16: OUT_LEN is the least length, which every window of the value has at least. -/
theorem encoderOutputMinimal : Obligations.EncoderOutputMinimal := by
  intro i s x h hx
  obtain ⟨pre, hexec, rfl⟩ : ∃ pre, exec i s = .next (encodeCommand .high pre s) ∧ x = pre s.inValue := by
    rcases hx with ⟨rfl, rfl⟩ | ⟨rfl, rfl⟩
    · exact ⟨id, rfl, rfl⟩
    · exact ⟨zz, rfl, rfl⟩
  obtain ⟨outLen, canonical⟩ := encodeCommand_high_minimal pre h
  refine ⟨_, hexec, outLen, canonical, fun c b hb => ?_⟩
  rw [outLen, ← hb]
  exact lengthOfValue_valHigh_le c b

/-- Settles O18: 16 bits are at most 21, and no length is 0. -/
theorem sixteenBitValueTakesAtMostThreeBytes : Obligations.SixteenBitValueTakesAtMostThreeBytes := by
  intro s v h hv
  obtain ⟨-, -, -, -, outLen, -⟩ := encodeCommand_spec Config.byte0Order id s
  have hlt : s.inValue.toNat < 2 ^ (7 * 3) := by
    have := v.isLt
    rw [hv, BitVec.toNat_setWidth_of_le (by decide)]
    omega
  refine ⟨_, rfl, ?_⟩
  rw [outLen, LenClass.count_toNat, State.valueOperand_written h]
  refine ⟨(lenOf _).bytes_le_scratch.1, ?_⟩
  rw [lenOf_bytes]
  exact lengthOfValue_le (by decide) (.inl hlt)

end Sys2Proof.Machine

/-! PROOF. The encoder's bytes in a window, the windows of each class that hold a value, and the inverse zigzag map
(R64, R67, R92, R93, R96, R103). -/

namespace Sys2Proof.Machine

/-! ### The encoder's bytes in a window -/

/-- The bytes of a register after its first ones were overwritten, as numbers. -/
theorem overwritePrefix_toNat (l : List Byte) (b : Bytes5) :
    (overwritePrefix l b).b0.toNat = (l.map BitVec.toNat).getD 0 b.b0.toNat ∧
    (overwritePrefix l b).b1.toNat = (l.map BitVec.toNat).getD 1 b.b1.toNat ∧
    (overwritePrefix l b).b2.toNat = (l.map BitVec.toNat).getD 2 b.b2.toNat ∧
    (overwritePrefix l b).b3.toNat = (l.map BitVec.toNat).getD 3 b.b3.toNat ∧
    (overwritePrefix l b).b4.toNat = (l.map BitVec.toNat).getD 4 b.b4.toNat := by
  simp only [List.getD_map, overwritePrefix, and_self]

/-- Writing bytes that a register already holds changes nothing. -/
theorem overwritePrefix_eq_self {l : List Byte} {b : Bytes5}
    (h : ∀ k : Fin 5, k.val < l.length → byteAt b k = l.getD k.val (byteAt b k)) : overwritePrefix l b = b := by
  refine Bytes5.ext_byteAt fun k => ?_
  rw [byteAt_overwritePrefix]
  by_cases hk : k.val < l.length
  · exact (h k hk).symm
  · exact List.getD_eq_default _ _ (Nat.le_of_not_lt hk)

/-- Byte 0 of a value's LOW layout lies in the range of the value's length (R60, R66). -/
theorem lengthOfByte0_lowBytes (v d : Nat) (hv : v < 2 ^ 32) :
    lengthOfByte0 ((lowBytes v).getD 0 d) = lengthOfValue v := by
  unfold lowBytes lengthOfValue
  split_ifs <;> simp only [List.getD_cons_zero, lengthOfByte0] <;> split_ifs <;> omega

/-- Byte 0 of an encoding tells the class of the value, under either order (R63). -/
theorem classOf_overwritePrefix_enc (o : Byte0Order) (v : Word) (old : Bytes5) :
    classOf (overwritePrefix (enc o v) old).b0 = lenOf v := by
  cases o with
  | high => exact (overwritePrefix_encHigh_b0 v old).1
  | low =>
    obtain ⟨b0, -⟩ := overwritePrefix_toNat (encLow v) old
    apply LenClass.bytes_inj
    rw [classOf_bytes, lenOf_bytes, enc, b0, encLow_toNat, lengthOfByte0_lowBytes _ _ v.isLt]

/-- Multiplying out R62's bytes gives the value back (R64). -/
theorem highValue_overwritePrefix_enc (v : Word) (old : Bytes5) :
    highValue (overwritePrefix (encHigh v) old) = v.toNat := by
  have hv := v.isLt
  obtain ⟨b0, b1, b2, b3, b4⟩ := overwritePrefix_toNat (encHigh v) old
  unfold highValue
  rw [b0, b1, b2, b3, b4, encHigh_toNat]
  unfold highBytes
  split_ifs <;> simp only [List.getD_cons_zero, List.getD_cons_succ] at * <;> omega

/-- Multiplying out R66's bytes gives the value back (R67). -/
theorem lowValue_overwritePrefix_enc (v : Word) (old : Bytes5) :
    lowValue (overwritePrefix (encLow v) old) = v.toNat := by
  have hv := v.isLt
  obtain ⟨b0, b1, b2, b3, b4⟩ := overwritePrefix_toNat (encLow v) old
  unfold lowValue
  rw [b0, b1, b2, b3, b4, encLow_toNat]
  unfold lowBytes
  split_ifs <;> simp only [List.getD_cons_zero, List.getD_cons_succ] at * <;> omega

/-- A window that begins with an encoding has the value encoded, under either order (R96). -/
theorem val_overwritePrefix_enc (o : Byte0Order) (v : Word) (old : Bytes5) :
    val o (lenOf v) (overwritePrefix (enc o v) old) = v := by
  apply BitVec.eq_of_toNat_eq
  rw [← classOf_overwritePrefix_enc o v old]
  cases o with
  | high => exact (valHigh_toNat _).trans (highValue_overwritePrefix_enc v old)
  | low => exact (valLow_toNat _).trans (lowValue_overwritePrefix_enc v old)

/-- The bits of R66's class-5 bytes that carry no value bit are 0 (R92). -/
theorem lowBytes_canonical (v d d' : Nat) (hv : v < 2 ^ 32) (h : 0xF0 ≤ (lowBytes v).getD 0 d) :
    (lowBytes v).getD 0 d % 16 < 8 ∧ (lowBytes v).getD 4 d' < 0x20 := by
  revert h
  unfold lowBytes
  split_ifs <;> simp only [List.getD_cons_zero, List.getD_cons_succ] <;> omega

/-- The encoder produces no non-canonical encoding (R92). -/
theorem not_noncanonical_overwritePrefix_enc (o : Byte0Order) (v : Word) (old : Bytes5) :
    ¬ Noncanonical o (overwritePrefix (enc o v) old) := by
  intro h
  obtain ⟨h5, -⟩ := (noncanon5_iff o _).2 h
  rw [classOf_overwritePrefix_enc] at h5
  obtain ⟨hb0, hbits⟩ := h
  cases o with
  | high =>
    rw [enc, (overwritePrefix_encHigh_b0 v old).2 h5] at hbits
    exact hbits rfl
  | low =>
    obtain ⟨b0, -, -, -, b4⟩ := overwritePrefix_toNat (encLow v) old
    rw [encLow_toNat] at b0 b4
    rw [enc, b0] at hb0
    have := lowBytes_canonical v.toNat _ old.b4.toNat v.isLt hb0
    simp only [enc, b0, b4] at hbits
    omega

/-! ### The windows of each class that hold a value -/

/-- The least byte 0 of a class (R60). -/
def LenClass.leastByte0 : LenClass → Nat
  | .one => 0x00
  | .two => 0x80
  | .three => 0xC0
  | .four => 0xE0
  | .five => 0xF0

/-- The window of a class that holds a value under HIGH, where the class has room for it: the low bytes from byte 1
on, and what is left above them in byte 0 (R62, R93). -/
def windowOfClass (c : LenClass) (v : Word) : Bytes5 where
  b0 := BitVec.ofNat 8 (c.leastByte0 + v.toNat / 2 ^ (8 * (c.bytes - 1)))
  b1 := BitVec.ofNat 8 v.toNat
  b2 := BitVec.ofNat 8 (v.toNat / 2 ^ 8)
  b3 := BitVec.ofNat 8 (v.toNat / 2 ^ 16)
  b4 := BitVec.ofNat 8 (v.toNat / 2 ^ 24)

/-- A value of at most four bytes has at most seven bits a byte (R60, R61). -/
theorem lt_of_lengthOfValue_le {v n : Nat} (h : lengthOfValue v ≤ n) (hn : n < 5) : v < 2 ^ (7 * n) := by
  revert h
  unfold lengthOfValue
  interval_cases n <;> split_ifs <;> omega

/-- A value that fits a class leaves at most 8 − n bits for the byte 0 of n bytes (R60). -/
theorem topBits_lt {c : LenClass} {v : Word} (h : (lenOf v).bytes ≤ c.bytes) :
    v.toNat / 2 ^ (8 * (c.bytes - 1)) < 2 ^ (8 - c.bytes) := by
  have hv := v.isLt
  rw [lenOf_bytes] at h
  have hroom := lt_of_lengthOfValue_le h
  cases c <;> simp only [LenClass.bytes] at * <;> omega

/-- Byte 0 holds the class's tag and the value's top bits. -/
theorem windowOfClass_b0_toNat {c : LenClass} {v : Word} (h : (lenOf v).bytes ≤ c.bytes) :
    (windowOfClass c v).b0.toNat = c.leastByte0 + v.toNat / 2 ^ (8 * (c.bytes - 1)) := by
  have htop := topBits_lt h
  rw [windowOfClass, BitVec.toNat_ofNat]
  cases c <;> simp only [LenClass.bytes, LenClass.leastByte0] at * <;> omega

/-- The bytes after byte 0 hold the value's low bits. -/
theorem windowOfClass_tail_toNat (c : LenClass) (v : Word) :
    (windowOfClass c v).b1.toNat = v.toNat % 256 ∧ (windowOfClass c v).b2.toNat = v.toNat / 2 ^ 8 % 256 ∧
      (windowOfClass c v).b3.toNat = v.toNat / 2 ^ 16 % 256 ∧
      (windowOfClass c v).b4.toNat = v.toNat / 2 ^ 24 % 256 := by
  simp only [windowOfClass, BitVec.toNat_ofNat, Nat.reducePow, and_self]

/-- Byte 0 tells the class, in class 5 has no bit set beside the tag, and the window has the value (R63, R64, R92). -/
theorem windowOfClass_spec {c : LenClass} {v : Word} (h : (lenOf v).bytes ≤ c.bytes) :
    lengthOfByte0 (windowOfClass c v).b0.toNat = c.bytes ∧ (windowOfClass c v).b0.toNat ≤ 0xF0 ∧
      highValue (windowOfClass c v) = v.toNat := by
  have hv := v.isLt
  have htop := topBits_lt h
  have hb0 := windowOfClass_b0_toNat h
  obtain ⟨hb1, hb2, hb3, hb4⟩ := windowOfClass_tail_toNat c v
  refine ⟨?length, ?canonical, ?value⟩
  case length =>
    unfold lengthOfByte0
    cases c <;> simp only [LenClass.bytes, LenClass.leastByte0] at hb0 htop ⊢ <;> split_ifs <;> omega
  case canonical =>
    cases c <;> simp only [LenClass.bytes, LenClass.leastByte0] at hb0 htop <;> omega
  case value =>
    unfold highValue
    cases c <;> simp only [LenClass.bytes, LenClass.leastByte0] at hb0 htop <;> split_ifs <;> omega

/-! ### The inverse zigzag map -/

/-- The inverse map halves a word, and complements the half of an odd one (R103). -/
theorem unzz_eq (u : Word) : unzz u = if u.toNat % 2 = 0 then u >>> 1 else ~~~(u >>> 1) := by
  have low : (u &&& 1#32).toNat = u.toNat % 2 := by
    rw [BitVec.toNat_and]
    exact Nat.and_one_is_mod _
  rw [unzz]
  split
  case isTrue h =>
    have zero : u &&& 1#32 = 0#32 := BitVec.eq_of_toNat_eq (low.trans h)
    rw [zero, BitVec.neg_zero, BitVec.xor_zero]
  case isFalse h =>
    have one : u &&& 1#32 = 1#32 := BitVec.eq_of_toNat_eq (low.trans (Nat.mod_two_ne_zero.1 h))
    rw [one]
    exact BitVec.xor_allOnes

/-- The inverse map of a word is the one of the integers (R103). -/
theorem unzz_toInt (u : Word) : (unzz u).toInt = unzigzagInt u.toNat := by
  have hlt := u.isLt
  rw [unzz_eq, unzigzagInt, BitVec.toInt_eq_toNat_cond]
  split
  case isTrue h =>
    rw [BitVec.toNat_ushiftRight, Nat.shiftRight_eq_div_pow]
    split_ifs <;> omega
  case isFalse h =>
    rw [BitVec.toNat_not, BitVec.toNat_ushiftRight, Nat.shiftRight_eq_div_pow]
    split_ifs <;> omega

/-- Over the integers the inverse map undoes the zigzag map (R104). -/
theorem unzigzagInt_zigzagInt (i : Int) : unzigzagInt (zigzagInt i) = i := by
  unfold unzigzagInt zigzagInt
  split_ifs <;> omega

/-- The inverse map undoes the zigzag map (R104). -/
theorem unzz_zz (s : Word) : unzz (zz s) = s := by
  apply BitVec.eq_of_toInt_eq
  rw [unzz_toInt, zz_toNat, unzigzagInt_zigzagInt]

end Sys2Proof.Machine

/-! PROOF. The decoder: its result by the bytes available and byte 0, what it reads and leaves unchanged, the policy
for non-canonical encodings, and the round trip with the encoder (R90 to R96, R111, R112). -/

namespace Sys2Proof.Machine

/-! ### DECU and DECS as the one decode command -/

/-- Each of the two decode commands is the shared operation under one map of the value (R90, R91). -/
theorem exec_decode {i : Instr} (h : i = .decu ∨ i = .decs) :
    ∃ post, ∀ s, exec i s = .next (decodeCommand Config.byte0Order Config.noncanon5Policy post s) := by
  rcases h with rfl | rfl
  · exact ⟨id, fun _ => rfl⟩
  · exact ⟨unzz, fun _ => rfl⟩

/-- What no decode changes, and that one without a value writes no output (R90, R112). -/
theorem decodeCommand_frame (o : Byte0Order) (pol : Noncanon5Policy) (post : Word → Word) (s : State) :
    CommandFrame s (decodeCommand o pol post s) ∧ ByteOutputsKept s (decodeCommand o pol post s) ∧
      ((decodeCommand o pol post s).flag .vv = false → ValueOutputsKept s (decodeCommand o pol post s)) := by
  obtain ⟨frame, bytes, -, values⟩ :=
    decodeWindow_frame o pol post s.windowOperand (s.useInputs (decodeInputs s))
  refine ⟨(s.useInputs_frame _).trans frame, ⟨?_, ?_⟩, fun h => ⟨?_, ?_⟩⟩
  · exact bytes.outB.trans (by simp)
  · exact bytes.outLen.trans (by simp)
  · exact (values h).outValue.trans (by simp)
  · exact (values h).outConsumed.trans (by simp)

/-- Settles O28: the frame of the shared operation. -/
theorem decoderFrame : Obligations.DecoderFrame := by
  intro i s hi
  obtain ⟨post, hexec⟩ := exec_decode hi
  exact ⟨_, hexec s, decodeCommand_frame _ _ post s⟩

/-- The map of the value acts on OUT_VALUE where the decode succeeds, and nowhere else (R91). -/
theorem decodeWindow_post (o : Byte0Order) (pol : Noncanon5Policy) (post : Word → Word) (w : Bytes5) (s : State) :
    decodeWindow o pol post w s =
      if (decodeWindow o pol id w s).flag .vv = true then
        (decodeWindow o pol id w s).writeOutValue (post (decodeWindow o pol id w s).outValue)
      else decodeWindow o pol id w s := by
  have failed : ∀ e, ¬ (s.clearCommandStatus.raise e).flag .vv = true := fun e => by cases e <;> simp [ErrorCause.flag]
  by_cases h0 : s.avail = 0
  · simp only [decodeWindow, if_pos h0, if_neg (failed _)]
  by_cases h1 : s.avail < (classOf w.b0).bytes
  · simp only [decodeWindow, if_neg h0, if_pos h1, if_neg (failed _)]
  by_cases h2 : classOf w.b0 = .five ∧ noncanon5 o w = true ∧ pol = .error
  · simp only [decodeWindow, if_neg h0, if_neg h1, if_pos h2, if_neg (failed _)]
  · simp only [decodeWindow, if_neg h0, if_neg h1, if_neg h2]
    rw [if_pos (by simp)]
    rfl

/-- Settles O27: both commands use the same inputs and differ in the map of the value. -/
theorem signedDecodeMirrorsUnsigned : Obligations.SignedDecodeMirrorsUnsigned :=
  fun s => ⟨_, rfl, congrArg _ (decodeWindow_post _ _ unzz s.windowOperand (s.useInputs (decodeInputs s)))⟩

/-! ### Too few bytes -/

/-- Settles O23: the decode reads byte 0 at most, which is written, and is short. -/
theorem decoderRaisesShort : Obligations.DecoderRaisesShort := by
  intro i s hi hshort
  obtain ⟨post, hexec⟩ := exec_decode hi
  have hlen := (classOf s.inB.b0).bytes_le_scratch.1
  rw [classOf_bytes] at hlen
  have hready : ∀ k : Fin 5, k.val < windowBytesRead s → s.inputWritten (.inB k) = true := by
    intro k hk
    rw [windowBytesRead, if_neg (by omega)] at hk
    obtain rfl : k = 0 := Fin.ext (by omega)
    exact (hshort.resolve_left (by omega)).2
  have havail : s.avail = 0 ∨ s.avail < (classOf s.inB.b0).bytes := by
    rw [classOf_bytes, State.avail_eq]
    omega
  obtain ⟨status, registers⟩ :=
    decodeWindow_short Config.byte0Order Config.noncanon5Policy post s.inB s havail
  rw [← decodeCommand_ready _ _ post hready] at status registers
  exact ⟨_, hexec s, status, registers, (decodeCommand_frame _ _ post s).1⟩

/-! ### Enough bytes -/

/-- A decode with its bytes available and written is the decoder's effect for the window as it is. -/
theorem decodeCommand_available (o : Byte0Order) (pol : Noncanon5Policy) (post : Word → Word) {s : State}
    (havail : lengthOfByte0 s.inB.b0.toNat ≤ min s.inAvail.toNat 5)
    (hwritten : ∀ k : Fin 5, k.val < lengthOfByte0 s.inB.b0.toNat → s.inputWritten (.inB k) = true) :
    decodeCommand o pol post s = decodeWindow o pol post s.inB s :=
  decodeCommand_ready o pol post (by rwa [windowBytesRead, if_pos havail])

/-- A decode with its bytes available and written succeeds, unless the policy rejects them (R90, R92). -/
theorem decodeCommand_success (o : Byte0Order) (pol : Noncanon5Policy) (post : Word → Word) {s : State}
    (havail : lengthOfByte0 s.inB.b0.toNat ≤ min s.inAvail.toNat 5)
    (hwritten : ∀ k : Fin 5, k.val < lengthOfByte0 s.inB.b0.toNat → s.inputWritten (.inB k) = true)
    (hpolicy : ¬ (Noncanonical o s.inB ∧ pol = .error)) :
    (decodeCommand o pol post s).outValue = post (val o (classOf s.inB.b0) s.inB) ∧
      (decodeCommand o pol post s).outConsumed = (classOf s.inB.b0).count ∧
      (decodeCommand o pol post s).status = statusAfter s 0x06#8 := by
  rw [decodeCommand_available o pol post havail hwritten]
  refine decodeWindow_success o pol post s.inB s ?_ hpolicy
  rwa [classOf_bytes, State.avail_eq]

/-- Under HIGH the bits of byte 0 that carry no value bit are 0 up to 0xF0 (R92). -/
theorem not_noncanonical_high {b : Bytes5} (h : b.b0.toNat ≤ 0xF0) : ¬ Noncanonical .high b := by
  rintro ⟨hlow, hbits⟩
  simp only at hbits
  omega

/-- Under HIGH a byte 0 above 0xF0 is non-canonical (R92). -/
theorem noncanonical_high {b : Bytes5} (h : 0xF0 < b.b0.toNat) : Noncanonical .high b := by
  have hlt := b.b0.isLt
  refine ⟨by omega, ?_⟩
  simp only
  omega

/-- A decode under HIGH of such a window: the value by multiplication, the count and STATUS (R64, R90, R93). -/
theorem decodeCommand_high (pol : Noncanon5Policy) (post : Word → Word) {s : State}
    (havail : lengthOfByte0 s.inB.b0.toNat ≤ min s.inAvail.toNat 5)
    (hwritten : ∀ k : Fin 5, k.val < lengthOfByte0 s.inB.b0.toNat → s.inputWritten (.inB k) = true)
    (hpolicy : s.inB.b0.toNat ≤ 0xF0 ∨ pol ≠ .error) :
    (∃ u : Word, u.toNat = highValue s.inB ∧ (decodeCommand .high pol post s).outValue = post u) ∧
      (decodeCommand .high pol post s).outConsumed.toNat = lengthOfByte0 s.inB.b0.toNat ∧
      (decodeCommand .high pol post s).status = statusAfter s 0x06#8 := by
  have hpolicy' : ¬ (Noncanonical .high s.inB ∧ pol = .error) := fun h =>
    hpolicy.elim (fun hle => not_noncanonical_high hle h.1) fun hne => hne h.2
  obtain ⟨outValue, outConsumed, status⟩ := decodeCommand_success .high pol post havail hwritten hpolicy'
  refine ⟨⟨_, valHigh_toNat s.inB, outValue⟩, ?_, status⟩
  rw [outConsumed, LenClass.count_toNat, classOf_bytes]

/-- Settles O19: byte 0 up to 0xF0 is no case of the policy. -/
theorem decuDecodesWindow : Obligations.DecuDecodesWindow := by
  intro s havail hb0 hwritten
  obtain ⟨⟨u, hu, outValue⟩, rest⟩ :=
    decodeCommand_high Config.noncanon5Policy id havail hwritten (.inl hb0)
  exact ⟨_, rfl, (congrArg BitVec.toNat outValue).trans hu, rest⟩

/-- Settles O20: DECU's value goes through the inverse zigzag map. -/
theorem decsDecodesWindow : Obligations.DecsDecodesWindow := by
  intro s havail hb0 hwritten
  obtain ⟨⟨u, hu, outValue⟩, rest⟩ :=
    decodeCommand_high Config.noncanon5Policy unzz havail hwritten (.inl hb0)
  refine ⟨_, rfl, ?_, rest⟩
  rw [← hu, ← unzz_toInt]
  exact congrArg BitVec.toInt outValue

/-- Settles O26: the value's window of the class is canonical and has the value. -/
theorem overlongEncodingsAccepted : Obligations.OverlongEncodingsAccepted := by
  intro v c h
  obtain ⟨hlength, hb0, hvalue⟩ := windowOfClass_spec h
  refine ⟨windowOfClass c v, LenClass.bytes_inj ((classOf_bytes _).trans hlength), fun s hs havail hwritten => ?_⟩
  have hc : c.bytes ≤ 5 := c.bytes_le_scratch.2
  rw [← hs] at hlength hb0 hvalue
  rw [← hlength] at havail hwritten hc ⊢
  obtain ⟨⟨u, hu, outValue⟩, rest⟩ :=
    decodeCommand_high Config.noncanon5Policy id (le_min havail hc) hwritten (.inl hb0)
  exact ⟨_, rfl, outValue.trans (BitVec.eq_of_toNat_eq (hu.trans hvalue)), rest⟩

/-! ### Non-canonical encodings -/

/-- A non-canonical encoding is of class 5 (R92). -/
theorem Noncanonical.length {o : Byte0Order} {b : Bytes5} (h : Noncanonical o b) :
    lengthOfByte0 b.b0.toNat = 5 := by
  rw [← classOf_bytes, ((noncanon5_iff o b).2 h).1]
  rfl

/-- The bytes of a non-canonical encoding are available once five bytes are. -/
theorem Noncanonical.available {o : Byte0Order} {s : State} (h : Noncanonical o s.inB) (havail : 5 ≤ s.inAvail.toNat) :
    lengthOfByte0 s.inB.b0.toNat ≤ min s.inAvail.toNat 5 := by
  rw [h.length]
  exact le_min havail le_rfl

/-- Under ERROR, a decode of a non-canonical encoding raises DecodeNonCanonical and keeps the registers (R92). -/
theorem decodeCommand_noncanonical (o : Byte0Order) (post : Word → Word) {s : State} (havail : 5 ≤ s.inAvail.toNat)
    (hwritten : ∀ k : Fin 5, s.inputWritten (.inB k) = true) (hn : Noncanonical o s.inB) :
    (decodeCommand o .error post s).status = statusAfter s 0x50#8 ∧
      RegistersKeptButStatus s (decodeCommand o .error post s) := by
  rw [decodeCommand_available o .error post (hn.available havail) fun k _ => hwritten k]
  exact decodeWindow_noncanonical o post s.inB s (le_min havail le_rfl) hn

/-- Settles O21: byte 0 above 0xF0 is the non-canonical case, which the policy decides. -/
theorem decodeNoncanonicalWindow : Obligations.DecodeNoncanonicalWindow := by
  intro s havail hb0 hwritten
  have hn := noncanonical_high hb0
  refine ⟨_, _, rfl, rfl, ?_⟩
  by_cases hpolicy : Config.noncanon5Policy = .error
  · obtain ⟨status, kept⟩ := decodeCommand_noncanonical .high id havail hwritten hn
    obtain ⟨status', kept'⟩ := decodeCommand_noncanonical .high unzz havail hwritten hn
    rw [hpolicy, if_pos rfl]
    exact ⟨status'.trans status.symm, status, ⟨kept.outValue, kept.outConsumed⟩, kept'.outValue, kept'.outConsumed⟩
  · have h5 := hn.available havail
    obtain ⟨⟨u, hu, outValue⟩, consumed, status⟩ :=
      decodeCommand_high Config.noncanon5Policy id h5 (fun k _ => hwritten k) (.inr hpolicy)
    obtain ⟨⟨u', hu', outValue'⟩, consumed', status'⟩ :=
      decodeCommand_high Config.noncanon5Policy unzz h5 (fun k _ => hwritten k) (.inr hpolicy)
    rw [hn.length] at consumed consumed'
    rw [if_neg hpolicy]
    refine ⟨status'.trans status.symm, status, BitVec.eq_of_toNat_eq consumed, BitVec.eq_of_toNat_eq consumed',
      (congrArg BitVec.toNat outValue).trans hu, ?_⟩
    rw [← hu', ← unzz_toInt]
    exact congrArg BitVec.toInt outValue'

/-- The policy makes no difference where the window is not a non-canonical encoding with its bytes available (R92). -/
theorem decodeWindow_policy_irrelevant (o : Byte0Order) (post : Word → Word) {w : Bytes5} {s : State}
    (h : ¬ (5 ≤ s.avail ∧ Noncanonical o w)) :
    decodeWindow o .error post w s = decodeWindow o .ignore post w s := by
  rw [← noncanon5_iff] at h
  by_cases h1 : s.avail < (classOf w.b0).bytes
  · rw [decodeWindow, decodeWindow, if_pos h1, if_pos h1]
  · have accepted : ∀ pol : Noncanon5Policy, ¬ (classOf w.b0 = .five ∧ noncanon5 o w = true ∧ pol = .error) := by
      rintro pol ⟨hfive, hbits, -⟩
      rw [hfive] at h1
      exact h ⟨Nat.le_of_not_lt h1, hfive, hbits⟩
    rw [decodeWindow, decodeWindow, if_neg (accepted .error), if_neg (accepted .ignore)]

/-- Settles O22: the two policies on a non-canonical encoding, on any other window, and on the encoder's bytes. -/
theorem noncanonicalPolicyDecides : Obligations.NoncanonicalPolicyDecides := by
  refine ⟨?decides, ?irrelevant, fun o v old _ => not_noncanonical_overwritePrefix_enc o v old⟩
  case decides =>
    intro o post s havail hn hwritten
    obtain ⟨status, kept⟩ := decodeCommand_noncanonical o post havail hwritten hn
    obtain ⟨outValue, outConsumed, status'⟩ :=
      decodeCommand_success o .ignore post (hn.available havail) (fun k _ => hwritten k) (by simp)
    rw [((noncanon5_iff o _).2 hn).1] at outValue outConsumed
    exact ⟨status, kept, status', outValue, outConsumed⟩
  case irrelevant =>
    intro o post s h
    refine decodeWindow_policy_irrelevant o post fun hn => h ⟨?_, hn.2⟩
    have havail := hn.1
    rw [State.avail_eq, State.useInputs_inAvail] at havail
    omega

/-! ### What a decode reads of the window -/

@[simp] theorem State.withWindow_inB (s : State) (b : Bytes5) (n : Count) : (s.withWindow b n).inB = b := rfl
@[simp] theorem State.withWindow_inAvail (s : State) (b : Bytes5) (n : Count) : (s.withWindow b n).inAvail = n := rfl

/-- How many bytes a decode reads depends on IN_AVAIL and byte 0, if there is one (R90, R94). -/
theorem windowBytesRead_withWindow {s : State} {b : Bytes5} (h : 0 < s.avail → b.b0 = s.inB.b0) :
    windowBytesRead (s.withWindow b s.inAvail) = windowBytesRead s := by
  have hlen := (classOf s.inB.b0).bytes_le_scratch.1
  have hlen' := (classOf b.b0).bytes_le_scratch.1
  rw [classOf_bytes] at hlen hlen'
  rw [State.avail_eq] at h
  rw [windowBytesRead, windowBytesRead, State.withWindow_inB, State.withWindow_inAvail]
  by_cases h0 : s.inAvail.toNat = 0
  · rw [if_neg (by omega), if_neg (by omega)]
  · rw [h (by omega)]

/-- A decode of written bytes sees the available bytes of the encoding alone (R94, R95). -/
theorem decodeCommand_withWindow_of_encoding (o : Byte0Order) (pol : Noncanon5Policy) (post : Word → Word) {s : State}
    {b : Bytes5} (hready : ∀ k : Fin 5, k.val < windowBytesRead s → s.inputWritten (.inB k) = true)
    (hb : ∀ k : Fin 5, k.val < lengthOfByte0 s.inB.b0.toNat → k.val < s.inAvail.toNat →
      byteAt b k = byteAt s.inB k) :
    decodeCommand o pol post (s.withWindow b s.inAvail) =
      (decodeCommand o pol post s).withWindow b s.inAvail := by
  have hlen := (classOf s.inB.b0).bytes_le_scratch.1
  rw [classOf_bytes] at hlen
  have hb0 : 0 < s.avail → b.b0 = s.inB.b0 := by
    intro h0
    rw [State.avail_eq] at h0
    exact hb 0 hlen (by simp; omega)
  have hready' : ∀ k : Fin 5, k.val < windowBytesRead (s.withWindow b s.inAvail) →
      (s.withWindow b s.inAvail).inputWritten (.inB k) = true := by
    rw [windowBytesRead_withWindow hb0]
    exact hready
  have hwindow : decodeWindow o pol post b s = decodeWindow o pol post s.inB s := by
    refine decodeWindow_congr o pol post s hb0 fun hle k hk => ?_
    rw [State.avail_eq] at hle
    rw [classOf_bytes] at hle hk
    exact hb k hk (by omega)
  rw [decodeCommand_ready o pol post hready', decodeCommand_ready o pol post hready]
  exact (decodeWindow_withWindow o pol post b s b s.inAvail rfl).trans (by rw [hwindow])

/-- A decode that counts bytes counts those of the class of byte 0 (R94). -/
theorem decodeWindow_consumed (o : Byte0Order) (pol : Noncanon5Policy) (post : Word → Word) (w : Bytes5) (s : State)
    (h : (decodeWindow o pol post w s).flag .cv = true) :
    (decodeWindow o pol post w s).outConsumed = (classOf w.b0).count := by
  rcases decodeWindow_cases o pol post w s with ⟨_, e⟩ | ⟨_, _, e⟩ | ⟨_, _, _, e⟩ | ⟨_, _, _, e⟩ <;> rw [e] at h ⊢
  · simp [ErrorCause.flag] at h
  · simp [ErrorCause.flag] at h
  · simp [ErrorCause.flag] at h
  · rfl

/-- Settles O24: the other window is one the decode reads the same of, and both windows are kept. -/
theorem decoderReadsOnlyTheEncoding : Obligations.DecoderReadsOnlyTheEncoding := by
  intro i s b hi hcommand hb
  have hready : ∀ k : Fin 5, k.val < windowBytesRead s → s.inputWritten (.inB k) = true := by
    rcases hi with rfl | rfl <;> exact of_decide_eq_true hcommand
  obtain ⟨post, hexec⟩ := exec_decode hi
  obtain ⟨frame, -⟩ := decodeCommand_frame Config.byte0Order Config.noncanon5Policy post s
  refine ⟨_, hexec s, ?_, frame.inB, fun hcv => ?_⟩
  · refine (hexec _).trans (congrArg _ ?_)
    refine (decodeCommand_withWindow_of_encoding _ _ post hready hb).trans ?_
    rw [State.withWindow, ← frame.inAvail]
  · rw [decodeCommand_ready _ _ post hready] at hcv ⊢
    rw [decodeWindow_consumed _ _ _ _ _ hcv, LenClass.count_toNat, classOf_bytes]

/-! ### The round trip -/

/-- A window that holds what an encode wrote is one that the encoding would not change (R96). -/
theorem overwritePrefix_of_encoded {o : Byte0Order} {pre : Word → Word} {s u : State}
    (hs : s.inputWritten .inValue = true)
    (hbytes : ∀ k : Fin 5, k.val < (encodeCommand o pre s).outLen.toNat →
      byteAt u.inB k = byteAt (encodeCommand o pre s).outB k) :
    overwritePrefix (enc o (pre s.inValue)) u.inB = u.inB := by
  obtain ⟨-, -, -, outB, outLen, -⟩ := encodeCommand_spec o pre s
  rw [State.valueOperand_written hs] at outB outLen
  rw [outLen, LenClass.count_toNat, ← enc_length o] at hbytes
  refine overwritePrefix_eq_self fun k hk => ?_
  rw [List.getD_eq_getElem _ _ hk, hbytes k hk, outB, byteAt_overwritePrefix, List.getD_eq_getElem _ _ hk]

/-- Decoding what an encode wrote gives the operand back, where the decoder's map undoes the encoder's (R96). -/
theorem decodeCommand_encodeCommand (o : Byte0Order) (pol : Noncanon5Policy) {pre post : Word → Word}
    (hinv : ∀ v, post (pre v) = v) {s u : State} (hs : s.inputWritten .inValue = true)
    (havail : u.inAvail = (encodeCommand o pre s).outLen)
    (hbytes : ∀ k : Fin 5, k.val < (encodeCommand o pre s).outLen.toNat →
      byteAt u.inB k = byteAt (encodeCommand o pre s).outB k ∧ u.inputWritten (.inB k) = true) :
    (decodeCommand o pol post u).outValue = s.inValue ∧
      (decodeCommand o pol post u).outConsumed = (encodeCommand o pre s).outLen ∧
      (decodeCommand o pol post u).status = statusAfter u 0x06#8 := by
  have hwindow := overwritePrefix_of_encoded hs fun k hk => (hbytes k hk).1
  obtain ⟨-, -, -, -, outLen, -⟩ := encodeCommand_spec o pre s
  rw [State.valueOperand_written hs] at outLen
  have hclass : classOf u.inB.b0 = lenOf (pre s.inValue) := by
    rw [← hwindow, classOf_overwritePrefix_enc]
  have hlength : lengthOfByte0 u.inB.b0.toNat = (encodeCommand o pre s).outLen.toNat := by
    rw [outLen, LenClass.count_toNat, ← classOf_bytes, hclass]
  have hvalue : val o (classOf u.inB.b0) u.inB = pre s.inValue := by
    rw [hclass, ← hwindow, val_overwritePrefix_enc]
  have hcanonical : ¬ Noncanonical o u.inB := by
    rw [← hwindow]
    exact not_noncanonical_overwritePrefix_enc o _ _
  have henough : lengthOfByte0 u.inB.b0.toNat ≤ min u.inAvail.toNat 5 := by
    rw [havail, hlength, outLen, LenClass.count_toNat]
    exact le_min le_rfl (lenOf _).bytes_le_scratch.2
  obtain ⟨outValue, outConsumed, status⟩ := decodeCommand_success o pol post henough
    (fun k hk => (hbytes k (by rwa [← hlength])).2) fun h => hcanonical h.1
  refine ⟨?_, ?_, status⟩
  · rw [outValue, hvalue, hinv]
  · rw [outConsumed, hclass, outLen]

/-- Settles O31: unsigned the maps are the identity, and signed the inverse zigzag map undoes the zigzag map. -/
theorem varintRoundTrip : Obligations.VarintRoundTrip := fun o pol _ _ hs =>
  ⟨decodeCommand_encodeCommand o pol (pre := id) (post := id) (fun _ => rfl) hs,
    decodeCommand_encodeCommand o pol unzz_zz hs⟩

/-- Settles O32: the round trip of the shared operations under HIGH and this machine's policy. -/
theorem commandRoundTrip : Obligations.CommandRoundTrip := by
  intro e d s t u hpair hs ht havail hbytes
  rcases hpair with ⟨rfl, rfl⟩ | ⟨rfl, rfl⟩
  · cases ht
    exact ⟨_, rfl, decodeCommand_encodeCommand _ _ (pre := id) (post := id) (fun _ => rfl) hs havail hbytes⟩
  · cases ht
    exact ⟨_, rfl, decodeCommand_encodeCommand _ _ unzz_zz hs havail hbytes⟩

end Sys2Proof.Machine

/-! PROOF. The zigzag coder: what ZZ and UNZZ compute and leave unchanged, and that the two maps are inverse, order
by magnitude and keep the one-byte range (R100 to R104). -/

namespace Sys2Proof.Machine

/-! ### ZZ and UNZZ as the one zigzag command -/

/-- Each of the two zigzag commands is the shared operation under one map of the operand (R100, R101). -/
theorem exec_zigzag {i : Instr} (h : i = .zz ∨ i = .unzz) : ∃ f, ∀ s, exec i s = .next (zigzagCommand f s) := by
  rcases h with rfl | rfl
  · exact ⟨zz, fun _ => rfl⟩
  · exact ⟨unzz, fun _ => rfl⟩

/-- Settles O36: the frame of the shared operation. -/
theorem zigzagFrame : Obligations.ZigzagFrame := by
  intro i s hi
  obtain ⟨f, hexec⟩ := exec_zigzag hi
  obtain ⟨frame, bytes, -, -, outConsumed, -⟩ := zigzagCommand_spec f s
  exact ⟨_, hexec s, frame, bytes, outConsumed⟩

/-- OUT_VALUE after a zigzag command is the image of IN_VALUE, where the host has written it. -/
theorem zigzagCommand_outValue (f : Word → Word) {s : State} (h : s.inputWritten .inValue = true) :
    (zigzagCommand f s).outValue = f s.inValue := by
  obtain ⟨-, -, -, outValue, -⟩ := zigzagCommand_spec f s
  rw [outValue, State.valueOperand_written h]

/-- Settles O33: ZZ's map is the formula, which over the integers is the closed form. -/
theorem zzComputesZigzag : Obligations.ZzComputesZigzag := by
  intro s h
  obtain ⟨-, -, status, -⟩ := zigzagCommand_spec zz s
  have outValue := zigzagCommand_outValue zz h
  refine ⟨_, rfl, outValue, ?_, status⟩
  rw [outValue]
  exact zz_toNat s.inValue

/-- The inverse map over the integers at a natural number, whose parity decides (R103). -/
theorem unzigzagInt_natCast (n : Nat) :
    unzigzagInt n = if n % 2 = 0 then (n : Int) / 2 else -(((n : Int) + 1) / 2) := by
  unfold unzigzagInt
  split_ifs <;> omega

/-- Settles O34: UNZZ's map is the formula, which over the integers is the closed form. -/
theorem unzzComputesInverseZigzag : Obligations.UnzzComputesInverseZigzag := by
  intro s h
  obtain ⟨-, -, status, -⟩ := zigzagCommand_spec unzz s
  have outValue := zigzagCommand_outValue unzz h
  refine ⟨_, rfl, outValue, ?_, status⟩
  rw [outValue, unzz_toInt, unzigzagInt_natCast]

/-! ### The zigzag laws -/

/-- Over the integers the zigzag map undoes the inverse map of a natural number (R104). -/
theorem zigzagInt_unzigzagInt (n : Nat) : zigzagInt (unzigzagInt n) = n := by
  unfold zigzagInt unzigzagInt
  split_ifs <;> omega

/-- The zigzag map undoes the inverse map (R104). -/
theorem zz_unzz (u : Word) : zz (unzz u) = u := by
  refine BitVec.eq_of_toNat_eq (Int.ofNat_inj.1 ?_)
  rw [zz_toNat, unzz_toInt, zigzagInt_unzigzagInt]

/-- The zigzag map orders by magnitude, and puts −k before k (R104). -/
theorem zigzagInt_lt {i j : Int} (h : i.natAbs < j.natAbs ∨ (i < 0 ∧ j = -i)) : zigzagInt i < zigzagInt j := by
  unfold zigzagInt
  split_ifs <;> omega

/-- The zigzag map takes −64 to 63, and no other integer, to at most 0x7F (R104). -/
theorem zigzagInt_le_0x7F (i : Int) : zigzagInt i ≤ 0x7F ↔ -64 ≤ i ∧ i ≤ 63 := by
  unfold zigzagInt
  split_ifs <;> omega

/-- The words whose zigzag image is a one-byte value (R104). -/
theorem zz_toNat_le_0x7F (s : Word) : (zz s).toNat ≤ 0x7F ↔ -64 ≤ s.toInt ∧ s.toInt ≤ 63 := by
  rw [← zigzagInt_le_0x7F, ← zz_toNat]
  exact Int.ofNat_le.symm

/-- The values of one byte (R61). -/
theorem lengthOfValue_eq_one (v : Nat) : lengthOfValue v = 1 ↔ v ≤ 0x7F := by
  unfold lengthOfValue
  split_ifs <;> omega

/-- A zigzag command on the result of another gives the operand back, where its map undoes the other's (R104). -/
theorem zigzagCommand_zigzagCommand {f g : Word → Word} (hinv : ∀ v, g (f v) = v) {s u : State}
    (hs : s.inputWritten .inValue = true) (hu : u.inputWritten .inValue = true)
    (hvalue : u.inValue = (zigzagCommand f s).outValue) : (zigzagCommand g u).outValue = s.inValue := by
  rw [zigzagCommand_outValue g hu, hvalue, zigzagCommand_outValue f hs, hinv]

/-- A zigzag command keeps the mark of a written IN_VALUE. -/
theorem zigzagCommand_inValue_written (f : Word → Word) {s : State} (h : s.inputWritten .inValue = true) :
    (zigzagCommand f s).inputWritten .inValue = true := by
  obtain ⟨frame, -⟩ := zigzagCommand_spec f s
  exact (congrArg InputsWritten.inValue frame.written).trans h

/-- Settles O35: the maps undo each other, and ZZ's order and range are those of the map over the integers. -/
theorem zigzagLaws : Obligations.ZigzagLaws := by
  refine ⟨?unzzAfterZz, ?zzAfterUnzz, ?order, ?oneByte⟩
  case unzzAfterZz =>
    intro s t h ht
    cases ht
    exact ⟨_, rfl, zigzagCommand_zigzagCommand unzz_zz h (zigzagCommand_inValue_written zz h) rfl⟩
  case zzAfterUnzz =>
    intro s t h ht
    cases ht
    exact ⟨_, rfl, zigzagCommand_zigzagCommand zz_unzz h (zigzagCommand_inValue_written unzz h) rfl⟩
  case order =>
    intro s s' t t' h h' ht ht' hlt
    cases ht
    cases ht'
    rw [zigzagCommand_outValue zz h, zigzagCommand_outValue zz h', ← Int.ofNat_lt, zz_toNat, zz_toNat]
    exact zigzagInt_lt hlt
  case oneByte =>
    intro s h
    obtain ⟨outLen, -⟩ := encodeCommand_high_minimal zz h
    refine ⟨_, _, rfl, rfl, ?_, ?_⟩
    · rw [zigzagCommand_outValue zz h]
      exact zz_toNat_le_0x7F s.inValue
    · rw [← zz_toNat_le_0x7F, ← lengthOfValue_eq_one]
      exact Eq.congr_left outLen

end Sys2Proof.Machine

/-! PROOF. Errors and model faults: the order of the checks, what an error leaves, and when the record of a model
fault is made and that it stays (R111, R112, R114 to R116). -/

namespace Sys2Proof.Machine

/-! ### The order of the checks -/

/-- A CMD write of 0x00 or of 0x07 and above is IllegalCommand, with no operand read (R71, R114). -/
theorem issueCommand_illegal {c : Byte} (hc : c.toNat = 0 ∨ 7 ≤ c.toNat) (s : State) :
    issueCommand c s = .next ((s.storeCmd c).clearCommandStatus.raise .illegalCommand) := by
  obtain ⟨x, hx⟩ := decodeByte_illegal hc
  exact issueCommand_of_error hx s

/-- A CMD write of 0x03 or 0x04 is the shared decode operation under one map of the value (R70, R90, R91). -/
theorem issueCommand_decode {c : Byte} (hc : c.toNat = 3 ∨ c.toNat = 4) (s : State) :
    ∃ post, issueCommand c s =
      .next (decodeCommand Config.byte0Order Config.noncanon5Policy post (s.storeCmd c)) := by
  rcases hc with hc | hc
  · obtain rfl : c = 0x03#8 := BitVec.eq_of_toNat_eq hc
    exact ⟨id, rfl⟩
  · obtain rfl : c = 0x04#8 := BitVec.eq_of_toNat_eq hc
    exact ⟨unzz, rfl⟩

/-- STATUS after a decode under HIGH whose bytes are written: the checks in their order (R114). -/
theorem decodeCommand_high_status (pol : Noncanon5Policy) (post : Word → Word) {s : State}
    (hready : ∀ k : Fin 5, k.val < windowBytesRead s → s.inputWritten (.inB k) = true) :
    (decodeCommand .high pol post s).status = statusAfter s
      (if s.inAvail.toNat = 0 then 0x48#8
       else if min s.inAvail.toNat 5 < lengthOfByte0 s.inB.b0.toNat then 0x48#8
       else if 0xF0 < s.inB.b0.toNat ∧ pol = .error then 0x50#8
       else 0x06#8) := by
  rw [decodeCommand_ready .high pol post hready, ← classOf_bytes, ← State.avail_eq]
  split_ifs with hnone hshort hpolicy
  · exact (decodeWindow_short .high pol post s.inB s (.inl (by rw [State.avail_eq, hnone]; rfl))).1
  · exact (decodeWindow_short .high pol post s.inB s (.inr hshort)).1
  · obtain ⟨hb0, rfl⟩ := hpolicy
    have hn := noncanonical_high hb0
    rw [classOf_bytes, hn.length] at hshort
    exact (decodeWindow_noncanonical .high post s.inB s (Nat.le_of_not_lt hshort) hn).1
  · have hcanon : ¬ (Noncanonical .high s.inB ∧ pol = .error) := fun ⟨hn, hp⟩ =>
      hpolicy ⟨Nat.lt_of_not_le fun hle => not_noncanonical_high hle hn, hp⟩
    exact (decodeWindow_success .high pol post s.inB s (Nat.le_of_not_lt hshort) hcanon).2.2

/-- A CMD write of an encode or zigzag command sets no error bit (R80, R81, R100, R101). -/
theorem CommandResult.no_error {s t : State} {c : Byte} (h : CommandResult s c t)
    (hc : c.toNat = 1 ∨ c.toNat = 2 ∨ c.toNat = 5 ∨ c.toNat = 6) :
    t.flag .eshort = false ∧ t.flag .enoncanon = false ∧ t.flag .eill = false := by
  cases h with
  | encoded x hx status => simp [flag_of_statusAfter status, StatusFlag.bit]
  | zigzagged hx status => simp [flag_of_statusAfter status, StatusFlag.bit]
  | short hx => rcases hx with rfl | rfl <;> simp at hc
  | noncanonical hx => rcases hx with rfl | rfl <;> simp at hc
  | decoded n hx => rcases hx with rfl | rfl <;> simp at hc
  | illegal hx =>
    rcases hx with rfl | hx
    · simp at hc
    · have hle : 7 ≤ c.toNat := BitVec.le_def.1 hx
      omega

/-- Settles O29: the CMD write by its byte; a decode goes through the checks one after the other. -/
theorem errorPriority : Obligations.ErrorPriority := by
  intro s v rest hp
  have hstep := step_write hp (regOfNumber_numberOfReg .cmd) (v := v)
  have hv : v.toNat % 256 = (v.setWidth 8).toNat := by simp
  obtain ⟨t, ht, -⟩ := issueCommand_next (v.setWidth 8) (s.withPending rest)
  rw [hv]
  refine ⟨t, hstep.trans ht, fun hc => ?illegal, fun hc hready => ?decode,
    (issueCommand_result ht).no_error⟩
  case illegal =>
    cases (issueCommand_illegal hc _).symm.trans ht
    exact ⟨State.raise_clear_status _ _, rfl⟩
  case decode =>
    obtain ⟨post, hdecode⟩ := issueCommand_decode hc (s.withPending rest)
    cases hdecode.symm.trans ht
    exact decodeCommand_high_status Config.noncanon5Policy post (of_decide_eq_true hready)

/-! ### The state after an error -/

/-- A decode that ends with an error bit used its inputs and raised the error, and did nothing else (R115). -/
theorem decodeCommand_raised (o : Byte0Order) (pol : Noncanon5Policy) (post : Word → Word) {s t : State}
    (ht : decodeCommand o pol post s = t) (herror : (t.flag .eshort || t.flag .enoncanon || t.flag .eill) = true) :
    ∃ e, t = (s.useInputs (decodeInputs s)).clearCommandStatus.raise e := by
  rw [decodeCommand] at ht
  rcases decodeWindow_cases o pol post s.windowOperand (s.useInputs (decodeInputs s)) with
    ⟨-, he⟩ | ⟨-, -, he⟩ | ⟨-, -, -, he⟩ | ⟨-, -, -, he⟩ <;> rw [he] at ht <;> subst ht
  · exact ⟨_, rfl⟩
  · exact ⟨_, rfl⟩
  · exact ⟨_, rfl⟩
  · simp at herror

/-- A CMD write that ends with an error bit stored CMD, used inputs and raised the error, and did nothing else
(R115). -/
theorem issueCommand_raised {c : Byte} {s t : State} (ht : issueCommand c s = .next t)
    (herror : (t.flag .eshort || t.flag .enoncanon || t.flag .eill) = true) :
    ∃ e rs, t = ((s.storeCmd c).useInputs rs).clearCommandStatus.raise e := by
  have hc : (c.toNat = 0 ∨ 7 ≤ c.toNat) ∨ (c.toNat = 3 ∨ c.toNat = 4) ∨
      (c.toNat = 1 ∨ c.toNat = 2 ∨ c.toNat = 5 ∨ c.toNat = 6) := by omega
  rcases hc with hillegal | hdecode | hother
  · cases (issueCommand_illegal hillegal s).symm.trans ht
    exact ⟨_, [], rfl⟩
  · obtain ⟨post, hpost⟩ := issueCommand_decode hdecode s
    obtain ⟨e, he⟩ := decodeCommand_raised _ _ post (Host.Outcome.next.inj (hpost.symm.trans ht)) herror
    exact ⟨e, _, he⟩
  · obtain ⟨hshort, hnoncanon, hill⟩ := (issueCommand_result ht).no_error hother
    simp [hshort, hnoncanon, hill] at herror

/-- Settles O30: an error is one raise after the clear at issue, and the use of inputs changes no register. -/
theorem errorLeavesRegisters : Obligations.ErrorLeavesRegisters := by
  intro s t v rest hp h herror
  have ht := (step_write hp (regOfNumber_numberOfReg .cmd)).symm.trans h
  obtain ⟨e, rs, rfl⟩ := issueCommand_raised ht herror
  refine ⟨?_, by simp, by constructor <;> simp⟩
  rw [State.raise_clear_status, statusAfter_and_low]
  cases e with
  | decodeShort => exact .inl rfl
  | decodeNonCanonical => exact .inr (.inl rfl)
  | illegalCommand => exact .inr (.inr rfl)

/-! ### When the record is made -/

/-- The registers a command reads whose content the host must have written, in the order it reads them (R69, R116 c). -/
def commandInputs (i : Instr) (s : State) : List Reg :=
  match i with
  | .encu => [.inValue]
  | .encs => [.inValue]
  | .decu => decodeInputs s
  | .decs => decodeInputs s
  | .zz => [.inValue]
  | .unzz => [.inValue]

/-- Every command answers a next state, with the use of its inputs in the record (R116 c, R131). -/
theorem exec_modelFault (i : Instr) (s : State) :
    ∃ t, exec i s = .next t ∧ t.modelFault = (s.useInputs (commandInputs i s)).modelFault := by
  have decode := fun post => (decodeWindow_frame Config.byte0Order Config.noncanon5Policy post s.windowOperand
    (s.useInputs (decodeInputs s))).2.2.1
  cases i with
  | encu => exact ⟨_, rfl, rfl⟩
  | encs => exact ⟨_, rfl, rfl⟩
  | decu => exact ⟨_, rfl, decode id⟩
  | decs => exact ⟨_, rfl, decode unzz⟩
  | zz => exact ⟨_, rfl, rfl⟩
  | unzz => exact ⟨_, rfl, rfl⟩

/-- A command is ready exactly when none of its inputs is unwritten. -/
theorem commandReady_iff (i : Instr) (s : State) :
    commandReady i s = true ↔ s.firstUnwritten (commandInputs i s) = none := by
  rw [State.firstUnwritten_eq_none]
  have value : s.inputWritten .inValue = true ↔ ∀ r ∈ [Reg.inValue], s.inputWritten r = true := by simp
  have window := decide_eq_true_iff.trans (decodeInputs_ready s).symm
  cases i with
  | encu => exact value
  | encs => exact value
  | decu => exact window
  | decs => exact window
  | zz => exact value
  | unzz => exact value

/-- A decode reads window bytes below the bytes available only, written or not (R90, R94). -/
theorem decodeInputs_available {s : State} {r : Reg} (h : r ∈ decodeInputs s) :
    ∃ k : Fin 5, r = .inB k ∧ k.val < s.avail := by
  unfold decodeInputs at h
  split_ifs at h with hnone hshort
  · cases h
  · exact ⟨0, List.mem_singleton.1 h, Nat.pos_of_ne_zero hnone⟩
  · obtain ⟨k, hk, rfl⟩ := List.mem_map.1 h
    exact ⟨k, rfl, ((LenClass.mem_positions _ k).1 hk).trans_le (Nat.le_of_not_lt hshort)⟩

/-- Settles O50: the record takes the first unwritten input of the command, if it has one. -/
theorem commandRecordsModelFaultExactlyWhenInputUnwritten :
    Obligations.CommandRecordsModelFaultExactlyWhenInputUnwritten := by
  intro i s
  obtain ⟨t, ht, hfault⟩ := exec_modelFault i s
  rw [State.useInputs_modelFault] at hfault
  refine ⟨fun hready => ⟨t, ht, ?written⟩, fun hready => ?unwritten⟩
  case written => rw [hfault, (commandReady_iff i s).1 hready, Option.map_none, Option.or_none]
  case unwritten =>
    obtain ⟨r, hr⟩ := Option.ne_none_iff_exists'.1 (mt (commandReady_iff i s).2 (ne_true_of_eq_false hready))
    obtain ⟨hmem, hunwritten⟩ := State.firstUnwritten_eq_some hr
    rw [hr, Option.map_some] at hfault
    refine ⟨t, r, ht, hfault, hunwritten, fun hi => ?value, fun hi => ?window⟩
    case value => rcases hi with rfl | rfl | rfl | rfl <;> exact List.mem_singleton.1 hmem
    case window => rcases hi with rfl | rfl <;> exact decodeInputs_available hmem

/-! ### The record stays -/

/-- A register write keeps a recorded model fault (R116). -/
theorem writeReg_keeps_fault {r : Reg} {v : Word} {s t : State} {m : ModelFault} (h : writeReg r v s = .next t)
    (hm : s.modelFault = some m) : t.modelFault = some m := by
  cases r with
  | cmd =>
    obtain ⟨t', ht', hframe⟩ := issueCommand_next (v.setWidth 8) s
    cases ht'.symm.trans h
    exact (hframe.modelFault (Option.isSome_of_eq_some hm)).trans hm
  | _ =>
    cases h
    exact hm

/-- A register read keeps a recorded model fault (R116). -/
theorem readReg_keeps_fault {r : Reg} {s t : State} {m : ModelFault} (h : readReg r s = .next t)
    (hm : s.modelFault = some m) : t.modelFault = some m := by
  obtain ⟨-, rfl⟩ := readReg_next h
  exact (s.useInputs_keeps_fault [r] (Option.isSome_of_eq_some hm)).trans hm

/-- A step keeps a recorded model fault (R116). -/
theorem step_keeps_fault {s t : State} {m : ModelFault} (h : step s = .next t) (hm : s.modelFault = some m) :
    t.modelFault = some m := by
  rcases step_cases h with ⟨-, rfl⟩ | ⟨n, v, r, rest, -, -, hw⟩ | ⟨n, r, rest, -, -, hr⟩ | ⟨rest, -, rfl⟩
  · exact hm
  · exact writeReg_keeps_fault hw hm
  · exact readReg_keeps_fault hr hm
  · exact hm

/-- A step of block k keeps a model fault recorded in it, and so does a fault of that block (R116, R122). -/
theorem stepInstance_keeps_fault {n : Nat} {k : Fin n} {blocks after : Vector State n} {m : ModelFault}
    (h : stepInstance k blocks = .next after) (hm : blocks[k].modelFault = some m) :
    after[k].modelFault = some m := by
  rcases stepInstance_next h with ⟨s, hs, rfl⟩ | ⟨f, -, rfl⟩
  · rw [show (blocks.set k s)[k] = s from Vector.getElem_set_self k.isLt]
    exact step_keeps_fault hs hm
  · rw [show (blocks.set k _)[k] = _ from Vector.getElem_set_self k.isLt, State.recordModelFault_modelFault, hm,
      Option.some_or]

/-- Settles O52: the block that steps keeps its record as a single one does, and the others are not written. -/
theorem modelFaultNeverCleared : Obligations.ModelFaultNeverCleared := by
  refine ⟨fun _ _ _ => step_keeps_fault, fun n j k blocks after m hm h => ?_⟩
  by_cases hjk : j = k
  · subst hjk
    exact stepInstance_keeps_fault h hm
  · rw [stepInstance_frame h hjk]
    exact hm

end Sys2Proof.Machine

/-! PROOF. Reset and hazards: what the reset event restores, the commands straight after it, that nothing else clears
STICKY, and that an unwritten input acts as a written one with its free value (R34, R116, R130, R131, R140). -/

namespace Sys2Proof.Machine

/-! ### The reset event -/

/-- The reset event clears the block and leaves the rest of the events (R130). -/
theorem step_reset {s : State} {rest : List HostEvent} (hp : s.pending = .reset :: rest) :
    step s = .next (s.withPending rest).resetBlock :=
  step_event hp

/-- No window byte counts as written after reset (R34, R116 c). -/
theorem State.resetBlock_inB_unwritten (s : State) (k : Fin 5) : s.resetBlock.inputWritten (.inB k) = false := by
  fin_cases k <;> rfl

/-- Settles O2: the event is `State.resetBlock`. -/
theorem resetEventRestoresStatedValues : Obligations.ResetEventRestoresStatedValues :=
  fun _ _ hp => ⟨_, step_reset hp, rfl, rfl, rfl, rfl, State.resetBlock_inB_unwritten _, rfl, rfl, rfl⟩

/-- Settles O4: with IN_AVAIL = 0 a decode is short and uses no byte, and the other commands read the unwritten
IN_VALUE. -/
theorem commandsStraightAfterReset : Obligations.CommandsStraightAfterReset := by
  intro s hfault
  refine ⟨fun i hi => ?decode, fun i hi => ?value⟩
  case decode =>
    have hready : commandReady i s.resetBlock = true := by rcases hi with rfl | rfl <;> rfl
    obtain ⟨t, ht, status, registers, -⟩ := decoderRaisesShort i s.resetBlock hi (.inl rfl)
    obtain ⟨t', ht', record⟩ := (commandRecordsModelFaultExactlyWhenInputUnwritten i s.resetBlock).1 hready
    cases ht'.symm.trans ht
    exact ⟨t, ht, status.trans (by simp [statusAfter]), registers, record.trans hfault⟩
  case value =>
    have hunready : commandReady i s.resetBlock = false := by rcases hi with rfl | rfl | rfl | rfl <;> rfl
    obtain ⟨t, r, ht, record, -, names, -⟩ :=
      (commandRecordsModelFaultExactlyWhenInputUnwritten i s.resetBlock).2 hunready
    refine ⟨t, ht, ?_⟩
    rw [record, State.resetBlock_modelFault, hfault, Option.none_or, names hi]

/-! ### What every command keeps, and STICKY -/

/-- Settles O10: the frame of the commands. -/
theorem everyCommandCompletes : Obligations.EveryCommandCompletes :=
  exec_frame

/-- A register write does not clear STICKY (R24, R25). -/
theorem writeReg_keeps_sticky {r : Reg} {v : Word} {s t : State} (h : writeReg r v s = .next t)
    (hs : s.flag .sticky = true) : t.flag .sticky = true := by
  cases r with
  | cmd =>
    obtain ⟨t', ht', hframe⟩ := issueCommand_next (v.setWidth 8) s
    cases ht'.symm.trans h
    exact hframe.sticky hs
  | _ =>
    cases h
    exact hs

/-- A register read leaves every flag (R48). -/
theorem readReg_flag {r : Reg} {s t : State} (h : readReg r s = .next t) (f : StatusFlag) : t.flag f = s.flag f := by
  obtain ⟨-, rfl⟩ := readReg_next h
  exact State.useInputs_flag s [r] f

/-- Settles O3: every other step keeps STICKY. -/
theorem stickyClearedOnlyByReset : Obligations.StickyClearedOnlyByReset := by
  intro s t h hs ht
  have hcleared := ne_true_of_eq_false ht
  rcases step_cases h with ⟨-, rfl⟩ | ⟨n, v, r, rest, -, -, hw⟩ | ⟨n, r, rest, -, -, hr⟩ | ⟨rest, hp, -⟩
  · exact absurd hs hcleared
  · exact absurd (writeReg_keeps_sticky hw hs) hcleared
  · exact absurd ((readReg_flag hr .sticky).trans hs) hcleared
  · exact ⟨rest, hp⟩

/-! ### The state with every operand written -/

/-- Every input counts as written in it. -/
theorem State.withOperandsWritten_inputWritten (s : State) (r : Reg) : s.withOperandsWritten.inputWritten r = true := by
  cases r with
  | inB k => fin_cases k <;> rfl
  | _ => rfl

/-- The use of inputs changes nothing in it. -/
theorem State.useInputs_withOperandsWritten (s : State) (rs : List Reg) :
    s.withOperandsWritten.useInputs rs = s.withOperandsWritten :=
  State.useInputs_ready fun r _ => s.withOperandsWritten_inputWritten r

/-- A decode reads the same window in it. -/
theorem State.windowOperand_withOperandsWritten (s : State) : s.withOperandsWritten.windowOperand = s.windowOperand :=
  Bytes5.ext_byteAt fun k => by
    rw [State.byteAt_windowOperand, State.byteOperand_written (s.withOperandsWritten_inputWritten _)]
    rfl

/-! ### Commands on unwritten inputs -/

/-- Two states with the same STATUS and outputs. -/
structure SameResult (s t : State) : Prop where
  status : t.status = s.status
  outB : t.outB = s.outB
  outLen : t.outLen = s.outLen
  outValue : t.outValue = s.outValue
  outConsumed : t.outConsumed = s.outConsumed

namespace SameResult

variable {s t : State}

/-- The use of inputs, here in the first state, shows in no result. -/
theorem useInputs (h : SameResult s t) (rs : List Reg) : SameResult (s.useInputs rs) t := by
  rw [State.useInputs_eq]
  exact { h with }

/-- The clear at issue keeps the relation. -/
theorem clearCommandStatus (h : SameResult s t) : SameResult s.clearCommandStatus t.clearCommandStatus :=
  { h with status := congrArg (· &&& 0xC0#8) h.status }

/-- Setting a field of STATUS keeps the relation. -/
theorem setFlag (h : SameResult s t) (f : StatusFlag) : SameResult (s.setFlag f) (t.setFlag f) :=
  { h with status := congrArg (· ||| (1#8 <<< f.bit)) h.status }

/-- Raising the same error keeps the relation. -/
theorem raise (h : SameResult s t) (e : ErrorCause) : SameResult (s.raise e) (t.raise e) :=
  (h.setFlag e.flag).setFlag .sticky

/-- The same write of OUT_B and OUT_LEN keeps the relation. -/
theorem writeOutBytes (h : SameResult s t) (l : List Byte) : SameResult (s.writeOutBytes l) (t.writeOutBytes l) :=
  { h with outB := congrArg (overwritePrefix l) h.outB, outLen := rfl }

/-- The same write of OUT_VALUE keeps the relation. -/
theorem writeOutValue (h : SameResult s t) (v : Word) : SameResult (s.writeOutValue v) (t.writeOutValue v) :=
  { h with outValue := rfl }

/-- The same write of OUT_CONSUMED keeps the relation. -/
theorem writeOutConsumed (h : SameResult s t) (n : Count) :
    SameResult (s.writeOutConsumed n) (t.writeOutConsumed n) :=
  { h with outConsumed := rfl }

/-- The decoder's effect for the same window and as many bytes available keeps the relation. -/
theorem decodeWindow (h : SameResult s t) (ha : t.avail = s.avail) (o : Byte0Order) (pol : Noncanon5Policy)
    (post : Word → Word) (w : Bytes5) : SameResult (decodeWindow o pol post w s) (decodeWindow o pol post w t) := by
  unfold Machine.decodeWindow
  rw [ha]
  split_ifs with hnone hshort hpolicy
  · exact h.clearCommandStatus.raise .decodeShort
  · exact h.clearCommandStatus.raise .decodeShort
  · exact h.clearCommandStatus.raise .decodeNonCanonical
  · exact (((h.clearCommandStatus.writeOutValue _).writeOutConsumed _).setFlag .vv).setFlag .cv

/-- Having every operand written shows in no result. -/
theorem withOperandsWritten (s : State) : SameResult s s.withOperandsWritten :=
  ⟨rfl, rfl, rfl, rfl, rfl⟩

end SameResult

/-- An encode encodes the same value with its operand written. -/
theorem encodeCommand_withOperandsWritten (o : Byte0Order) (pre : Word → Word) (s : State) :
    SameResult (encodeCommand o pre s) (encodeCommand o pre s.withOperandsWritten) := by
  rw [encodeCommand, encodeCommand, State.useInputs_withOperandsWritten]
  exact (((SameResult.withOperandsWritten s).useInputs _).clearCommandStatus.writeOutBytes _).setFlag .bv

/-- A decode reads the same window with its operands written. -/
theorem decodeCommand_withOperandsWritten (o : Byte0Order) (pol : Noncanon5Policy) (post : Word → Word) (s : State) :
    SameResult (decodeCommand o pol post s) (decodeCommand o pol post s.withOperandsWritten) := by
  have havail : s.withOperandsWritten.avail = (s.useInputs (decodeInputs s)).avail := by
    rw [State.avail_eq, State.avail_eq, State.useInputs_inAvail]
    rfl
  rw [decodeCommand, decodeCommand, State.useInputs_withOperandsWritten, State.windowOperand_withOperandsWritten]
  exact ((SameResult.withOperandsWritten s).useInputs _).decodeWindow havail o pol post _

/-- A zigzag command maps the same value with its operand written. -/
theorem zigzagCommand_withOperandsWritten (f : Word → Word) (s : State) :
    SameResult (zigzagCommand f s) (zigzagCommand f s.withOperandsWritten) := by
  rw [zigzagCommand, zigzagCommand, State.useInputs_withOperandsWritten]
  exact (((SameResult.withOperandsWritten s).useInputs _).clearCommandStatus.writeOutValue _).setFlag .vv

/-- With every operand written no command adds to the record (R116 c). -/
theorem exec_withOperandsWritten_modelFault (i : Instr) (s : State) :
    ∃ u, exec i s.withOperandsWritten = .next u ∧ u.modelFault = s.modelFault := by
  obtain ⟨u, hu, record⟩ := exec_modelFault i s.withOperandsWritten
  rw [State.useInputs_withOperandsWritten] at record
  exact ⟨u, hu, record⟩

/-- Settles O51: each shared operation leaves the same result with its operands written. -/
theorem unwrittenInputsActAsFreeValues : Obligations.UnwrittenInputsActAsFreeValues := by
  intro i s
  obtain ⟨f, hexec, result⟩ := exec_shared (P := fun f => SameResult (f s) (f s.withOperandsWritten))
    (fun _ => encodeCommand_withOperandsWritten _ _ s) (fun _ => decodeCommand_withOperandsWritten _ _ _ s)
    (fun _ => zigzagCommand_withOperandsWritten _ s) i
  obtain ⟨u, hu, record⟩ := exec_withOperandsWritten_modelFault i s
  cases (hexec _).symm.trans hu
  exact ⟨_, _, hexec s, hexec _, result.status, ⟨result.outB, result.outLen⟩,
    ⟨result.outValue, result.outConsumed⟩, record⟩

end Sys2Proof.Machine
